-- ==== Sys2Proof/Word.lean ====
section
/-! DEFINITION. The widths of the machine: spec/00_scope.md R5 (XLEN, SPRLEN, ALEN, ILEN), R7. -/

namespace Sys2Proof

/-- A user register, a 16-bit memory access, an instruction; spec/10_state.md R20, spec/30_encoding.md R100. -/
abbrev Word := BitVec 16

/-- A byte of memory; spec/20_memory.md R70. -/
abbrev Byte := BitVec 8

/-- A special purpose register or a TLB entry; spec/10_state.md R30, R40. -/
abbrev Long := BitVec 32

/-- A byte address, and the program counter; spec/10_state.md R25, spec/20_memory.md R70. -/
abbrev Addr := BitVec 24

end Sys2Proof
end

