-- ==== Sys2Proof/Config.lean ====
section
/-! DEFINITION. What one build of the hardware fixes, as data (spec/00_scope.md R5), what an unlisted byte of memory
reads as, and the values the spec leaves open, as constants without a body. -/

namespace Sys2Proof

/-- `ENDIAN`, decision D3; spec/20_memory.md R72. -/
inductive Endian where
  | big | little
  deriving DecidableEq, Repr

/-- `LDB_HIGH`, decision D21; spec/45_io_memory.md R267, R268. -/
inductive LdbHigh where
  | zero | preserve
  deriving DecidableEq, Repr

/-- `REL_BASE`, decision D10; spec/44_flow_control.md R222. -/
inductive RelBase where
  | self | next
  deriving DecidableEq, Repr

/-- `REL_UNIT`, the bytes one count of a relative offset stands for, decision D10; spec/44_flow_control.md R222. -/
inductive RelUnit where
  | one | two
  deriving DecidableEq, Repr

/-- `TRAP_LINK`, decision D24; spec/60_exceptions.md R305. -/
inductive TrapLink where
  | next | faulting
  deriving DecidableEq, Repr

/-- `IMM_UNDOCUMENTED`, decision D7; spec/30_encoding.md R112. -/
inductive ImmUndocumented where
  | refuse | ignore
  deriving DecidableEq, Repr

/-- `UNIT_ABSENT_POLICY`, decision D19; spec/30_encoding.md R126. -/
inductive UnitAbsent where
  | illegal | refuse
  deriving DecidableEq, Repr

/-- Where the seven floating-point functions of spec/43_alu_float.md R206 come from: the default instantiation of its
table, or nothing known about them. -/
inductive FpNumerics where
  | ieee754 | uninterpreted
  deriving DecidableEq, Repr

/-- The kinds and widths of access a platform answers for; spec/20_memory.md R77, R80. -/
inductive AccessKind where
  | fetch | readWord | readByte | writeWord | writeByte
  deriving DecidableEq, Repr

/-- The bytes an access covers; spec/20_memory.md R77. -/
def AccessKind.width : AccessKind → Nat
  | .fetch => 2
  | .readWord => 2
  | .readByte => 1
  | .writeWord => 2
  | .writeByte => 1

/-- Memory, or a memory-mapped device; spec/10_state.md R42. -/
inductive RegionKind where
  | memory | device
  deriving DecidableEq, Repr

/-- A region of the platform's map: `size` bytes from `base`, and the accesses it admits; spec/20_memory.md R80. -/
structure Region where
  base : Nat
  size : Nat
  kind : RegionKind
  admits : List AccessKind
  deriving DecidableEq, Repr

/-- The region admits an access of this kind at this address, all of its bytes inside; spec/20_memory.md R80. -/
def Region.takes (r : Region) (k : AccessKind) (a : Nat) : Bool :=
  r.admits.contains k && decide (r.base ≤ a) && decide (a + k.width ≤ r.base + r.size)

/-- DESIGN CHOICE (log 5, unsafe): the platform at reset, all 2^24 bytes memory that admits every access. -/
def Region.allMemory : Region where
  base := 0
  size := 2 ^ 24
  kind := .memory
  admits := [.fetch, .readWord, .readByte, .writeWord, .writeByte]

/-- The parameters of spec/00_scope.md R5, each with its default. The three optional units and the platform have no
default in the spec; here the units are present and the platform is `Region.allMemory` (DESIGN CHOICE, log 4 and
log 5, unsafe). -/
structure Config where
  hasFpu : Bool := true
  hasBarrel : Bool := true
  hasMmu : Bool := true
  endian : Endian := .big
  pairHighFirst : Bool := true
  rotateThroughCarry : Bool := true
  subCarryIsBorrow : Bool := true
  logicClearsCarry : Bool := true
  ldbHigh : LdbHigh := .zero
  relBase : RelBase := .self
  relUnit : RelUnit := .two
  trapLink : TrapLink := .next
  immUndocumented : ImmUndocumented := .refuse
  unitAbsent : UnitAbsent := .illegal
  resetVbar : Long := 0#32
  resetMsr : Long := 0#32
  fpNumerics : FpNumerics := .ieee754
  platform : List Region := [.allMemory]
  deriving DecidableEq, Repr

/-- DESIGN CHOICE (log 3, unsafe): what a byte of memory that nothing has written reads as. The spec leaves the
contents at reset to the platform (spec/70_reset_and_hazards.md R350). -/
def Config.blankByte : Byte := 0#8

/-- The operations of spec/43_alu_float.md R206 that can give a NaN. -/
inductive FpOp where
  | add | sub | mul | div
  deriving DecidableEq, Repr

/-- Free value (log 8): `Z` after an instruction that leaves it UNSPECIFIED; spec/10_state.md R28. -/
opaque Config.freeZ : Nat → Bool

/-- Free value (log 8): `C` after an instruction that leaves it UNSPECIFIED; spec/10_state.md R28. -/
opaque Config.freeC : Nat → Bool

/-- Free value (log 9): `rx` after a division whose quotient does not fit; spec/41_alu_integer.md R186, R188. -/
opaque Config.freeQuotient : Nat → Word

/-- One access to a device: a read or fetch, or a write with the value written, a byte widened with zeros;
spec/20_memory.md R80. -/
inductive DeviceAccess where
  | read (k : AccessKind) (a : Addr)
  | write (k : AccessKind) (a : Addr) (v : Word)
  deriving DecidableEq, Repr

/-- Free value (log 6): the byte a device read gives. DESIGN CHOICE: it is a function of the device accesses before it,
the latest first, and of its address. spec/20_memory.md R80. -/
opaque Config.deviceByte : List DeviceAccess → Addr → Byte

/-- Free value (log 6): the 16-bit value a device read or fetch gives. DESIGN CHOICE: it is a function of the device
accesses before it, the latest first, of its kind and of its address. spec/20_memory.md R80. -/
opaque Config.deviceWord : List DeviceAccess → AccessKind → Addr → Word

/-- Free value (log 11): the sign of a NaN result of an operation on two operands; spec/43_alu_float.md R206. -/
opaque Config.nanSign : FpOp → Long → Long → Bool

/-- Free value (log 11): the payload below the quiet bit of a NaN result; spec/43_alu_float.md R206. -/
opaque Config.nanPayload : FpOp → Long → Long → BitVec 22

/-- Free value (log 11): `fp_to_int` of a NaN, an infinity or a value out of range; spec/43_alu_float.md R206. -/
opaque Config.fpToIntFree : Long → Long

/-- `fp_add` left uninterpreted (log 10); spec/43_alu_float.md R206. -/
opaque Config.fpAdd : Long → Long → Long

/-- `fp_sub` left uninterpreted (log 10); spec/43_alu_float.md R206. -/
opaque Config.fpSub : Long → Long → Long

/-- `fp_mul` left uninterpreted (log 10); spec/43_alu_float.md R206. -/
opaque Config.fpMul : Long → Long → Long

/-- `fp_div` left uninterpreted (log 10); spec/43_alu_float.md R206. -/
opaque Config.fpDiv : Long → Long → Long

/-- `fp_cmp` left uninterpreted (log 10): the flags `(Z, C)`; spec/43_alu_float.md R206. -/
opaque Config.fpCmp : Long → Long → Bool × Bool

/-- `fp_to_int` left uninterpreted (log 10); spec/43_alu_float.md R206. -/
opaque Config.fpToInt : Long → Long

/-- `int_to_fp` left uninterpreted (log 10); spec/43_alu_float.md R206. -/
opaque Config.intToFp : Long → Long

end Sys2Proof
end

