-- ==== Sys2Proof/Syntax.lean ====
section
/-! DEFINITION. The instructions of NanoBrain: one constructor for each of the 88 rows of the opcode table
(spec/30_encoding.md R120), in the table's order, with the operand fields of its pattern, and the two columns of the
table that other definitions read: the format (R102 to R105) and the unit (spec/00_scope.md R2). -/

namespace Sys2Proof

/-- A user register number, `r0` (0) to `rf` (15); spec/30_encoding.md R114. -/
abbrev RegNum := BitVec 4

/-- The 88 instructions. A field has the name and the width it has in the pattern; the absolute loads and stores name
their register by its number, which `Instr.wf` confines to `r0` and `r1` (spec/10_state.md R21). -/
inductive Instr where
  /-- `imm kkk`, row 1, R140. -/
  | imm (a : BitVec 14)
  /-- `add rx, ry`, row 2, R152. -/
  | addRR (x y : RegNum)
  /-- `add rx, kkk`, row 3, R153. -/
  | addRI (x : RegNum) (b : BitVec 4)
  /-- `adc rx, ry`, row 4, R154. -/
  | adcRR (x y : RegNum)
  /-- `adc rx, kkk`, row 5, R155. -/
  | adcRI (x : RegNum) (b : BitVec 4)
  /-- `sub rx, ry`, row 6, R156. -/
  | subRR (x y : RegNum)
  /-- `sub rx, kkk`, row 7, R157. -/
  | subRI (x : RegNum) (b : BitVec 4)
  /-- `sbb rx, ry`, row 8, R158. -/
  | sbbRR (x y : RegNum)
  /-- `sbb rx, kkk`, row 9, R159. -/
  | sbbRI (x : RegNum) (b : BitVec 4)
  /-- `and rx, ry`, row 10, R160. -/
  | andRR (x y : RegNum)
  /-- `and rx, kkk`, row 11, R161. -/
  | andRI (x : RegNum) (b : BitVec 4)
  /-- `or rx, ry`, row 12, R162. -/
  | orRR (x y : RegNum)
  /-- `or rx, kkk`, row 13, R163. -/
  | orRI (x : RegNum) (b : BitVec 4)
  /-- `xor rx, ry`, row 14, R164. -/
  | xorRR (x y : RegNum)
  /-- `xor rx, kkk`, row 15, R165. -/
  | xorRI (x : RegNum) (b : BitVec 4)
  /-- `sla rx`, row 16, R166. -/
  | sla (x : RegNum)
  /-- `slx rx`, row 17, R167. -/
  | slx (x : RegNum)
  /-- `sl0 rx`, row 18, R168. -/
  | sl0 (x : RegNum)
  /-- `sl1 rx`, row 19, R169. -/
  | sl1 (x : RegNum)
  /-- `rl rx`, row 20, R170. -/
  | rl (x : RegNum)
  /-- `sra rx`, row 21, R171. -/
  | sra (x : RegNum)
  /-- `srx rx`, row 22, R172. -/
  | srx (x : RegNum)
  /-- `sr0 rx`, row 23, R173. -/
  | sr0 (x : RegNum)
  /-- `sr1 rx`, row 24, R174. -/
  | sr1 (x : RegNum)
  /-- `rr rx`, row 25, R175. -/
  | rr (x : RegNum)
  /-- `cmp rx, ry`, row 26, R176. -/
  | cmpRR (x y : RegNum)
  /-- `cmp rx, bbb`, row 27, R177. -/
  | cmpRI (x : RegNum) (b : BitVec 4)
  /-- `test rx, ry`, row 28, R178. -/
  | testRR (x y : RegNum)
  /-- `test rx, bbb`, row 29, R179. -/
  | testRI (x : RegNum) (b : BitVec 4)
  /-- `load rx, ry`, row 30, R180. -/
  | loadRR (x y : RegNum)
  /-- `load rx, bbb`, row 31, R181. -/
  | loadRI (x : RegNum) (b : BitVec 4)
  /-- `mul rx, ry`, row 32, R182. -/
  | mulRR (x y : RegNum)
  /-- `mul rx, bbb`, row 33, R183. -/
  | mulRI (x : RegNum) (b : BitVec 4)
  /-- `muls rx, ry`, row 34, R184. -/
  | mulsRR (x y : RegNum)
  /-- `muls rx, bbb`, row 35, R185. -/
  | mulsRI (x : RegNum) (b : BitVec 4)
  /-- `div rx, ry`, row 36, R186. -/
  | divRR (x y : RegNum)
  /-- `div rx, bbb`, row 37, R187. -/
  | divRI (x : RegNum) (b : BitVec 4)
  /-- `divs rx, ry`, row 38, R188. -/
  | divsRR (x y : RegNum)
  /-- `divs rx, bbb`, row 39, R189. -/
  | divsRI (x : RegNum) (b : BitVec 4)
  /-- `bsl rx, b`, row 40, R201. -/
  | bsl (x : RegNum) (b : BitVec 4)
  /-- `bsr rx, b`, row 41, R202. -/
  | bsr (x : RegNum) (b : BitVec 4)
  /-- `fmul FPu, FPv`, row 42, R207. -/
  | fmul (u v : BitVec 2)
  /-- `fdiv FPu, FPv`, row 43, R208. -/
  | fdiv (u v : BitVec 2)
  /-- `fadd FPu, FPv`, row 44, R209. -/
  | fadd (u v : BitVec 2)
  /-- `fsub FPu, FPv`, row 45, R210. -/
  | fsub (u v : BitVec 2)
  /-- `fcmp FPu, FPv`, row 46, R211. -/
  | fcmp (u v : BitVec 2)
  /-- `fint FPu`, row 47, R212. -/
  | fint (u : BitVec 2)
  /-- `fflt FPu`, row 48, R213. -/
  | fflt (u : BitVec 2)
  /-- `jump ccc`, row 49, R224. -/
  | jump (c : BitVec 9)
  /-- `jump nz ccc`, row 50, R225. -/
  | jumpNz (c : BitVec 9)
  /-- `jump z ccc`, row 51, R226. -/
  | jumpZ (c : BitVec 9)
  /-- `jump nc ccc`, row 52, R227. -/
  | jumpNc (c : BitVec 9)
  /-- `jump c ccc`, row 53, R228. -/
  | jumpC (c : BitVec 9)
  /-- `jump rel ccc`, row 54, R229. -/
  | jumpRel (c : BitVec 9)
  /-- `jump rel nz ccc`, row 55, R230. -/
  | jumpRelNz (c : BitVec 9)
  /-- `jump rel z ccc`, row 56, R231. -/
  | jumpRelZ (c : BitVec 9)
  /-- `jump rel nc ccc`, row 57, R232. -/
  | jumpRelNc (c : BitVec 9)
  /-- `jump rel c ccc`, row 58, R233. -/
  | jumpRelC (c : BitVec 9)
  /-- `call ccc`, row 59, R234. -/
  | call (c : BitVec 9)
  /-- `call nz ccc`, row 60, R235. -/
  | callNz (c : BitVec 9)
  /-- `call z ccc`, row 61, R236. -/
  | callZ (c : BitVec 9)
  /-- `call nc ccc`, row 62, R237. -/
  | callNc (c : BitVec 9)
  /-- `call c ccc`, row 63, R238. -/
  | callC (c : BitVec 9)
  /-- `call rel ccc`, row 64, R239. -/
  | callRel (c : BitVec 9)
  /-- `call rel nz ccc`, row 65, R240. -/
  | callRelNz (c : BitVec 9)
  /-- `call rel z ccc`, row 66, R241. -/
  | callRelZ (c : BitVec 9)
  /-- `call rel nc ccc`, row 67, R242. -/
  | callRelNc (c : BitVec 9)
  /-- `call rel c ccc`, row 68, R243. -/
  | callRelC (c : BitVec 9)
  /-- `svc`, row 69, R244. -/
  | svc
  /-- `ret`, row 70, R245. -/
  | ret
  /-- `reti`, row 71, R246. -/
  | reti
  /-- `rete`, row 72, R247. -/
  | rete
  /-- `ldw r0/r1, ccc`, row 73, R263. -/
  | ldwAbs (x : RegNum) (c : BitVec 9)
  /-- `ldw rx, [IDy + 2b]`, row 74, R264. -/
  | ldwIdx (x : RegNum) (y : BitVec 2) (b : BitVec 4)
  /-- `ldspr rx:rx+1, SPRy`, row 75, R283. -/
  | ldspr (x : BitVec 3) (y : BitVec 4)
  /-- `incpr IDy`, row 76, R285. -/
  | incpr (y : BitVec 2)
  /-- `wincpr IDy`, row 77, R286. -/
  | wincpr (y : BitVec 2)
  /-- `decpr IDy`, row 78, R287. -/
  | decpr (y : BitVec 2)
  /-- `wdecpr IDy`, row 79, R288. -/
  | wdecpr (y : BitVec 2)
  /-- `ldpid rx`, row 80, R289. -/
  | ldpid (x : RegNum)
  /-- `ldtlb rx:rx+1, d`, row 81, R290. -/
  | ldtlb (x : BitVec 3) (d : BitVec 5)
  /-- `stw r0/r1, ccc`, row 82, R265. -/
  | stwAbs (x : RegNum) (c : BitVec 9)
  /-- `stw rx, [IDy + 2b]`, row 83, R266. -/
  | stwIdx (x : RegNum) (y : BitVec 2) (b : BitVec 4)
  /-- `stspr rx:rx+1, SPRy`, row 84, R284. -/
  | stspr (x : BitVec 3) (y : BitVec 4)
  /-- `ldb r0/r1, [eee]`, row 85, R267. -/
  | ldbAbs (x : RegNum) (e : BitVec 10)
  /-- `ldb rx, [IDy + b]`, row 86, R268. -/
  | ldbIdx (x : RegNum) (y : BitVec 2) (b : BitVec 4)
  /-- `stb r0/r1, [eee]`, row 87, R269. -/
  | stbAbs (x : RegNum) (e : BitVec 10)
  /-- `stb rx, [IDy + b]`, row 88, R270. -/
  | stbIdx (x : RegNum) (y : BitVec 2) (b : BitVec 4)
  deriving DecidableEq, Repr

/-- The seventeen formats; spec/30_encoding.md R102 to R105. -/
inductive Format where
  | imm | aluRR | aluRI | aluR1 | aluBS | aluFP2 | aluFP1 | fcAbs | fcRel | fcSys | ioAbsW | ioIdx | ioSpr | ioIdOp | ioPid | ioTlb | ioAbsB
  deriving DecidableEq, Repr

/-- The unit column of the opcode table; spec/00_scope.md R2, spec/30_encoding.md R120. -/
inductive ExecUnit where
  | main | integer | barrel | float | none
  deriving DecidableEq, Repr

/-- The format column of spec/30_encoding.md R120. -/
def Instr.format : Instr → Format
  | .imm _ => .imm
  | .addRR _ _ => .aluRR
  | .addRI _ _ => .aluRI
  | .adcRR _ _ => .aluRR
  | .adcRI _ _ => .aluRI
  | .subRR _ _ => .aluRR
  | .subRI _ _ => .aluRI
  | .sbbRR _ _ => .aluRR
  | .sbbRI _ _ => .aluRI
  | .andRR _ _ => .aluRR
  | .andRI _ _ => .aluRI
  | .orRR _ _ => .aluRR
  | .orRI _ _ => .aluRI
  | .xorRR _ _ => .aluRR
  | .xorRI _ _ => .aluRI
  | .sla _ => .aluR1
  | .slx _ => .aluR1
  | .sl0 _ => .aluR1
  | .sl1 _ => .aluR1
  | .rl _ => .aluR1
  | .sra _ => .aluR1
  | .srx _ => .aluR1
  | .sr0 _ => .aluR1
  | .sr1 _ => .aluR1
  | .rr _ => .aluR1
  | .cmpRR _ _ => .aluRR
  | .cmpRI _ _ => .aluRI
  | .testRR _ _ => .aluRR
  | .testRI _ _ => .aluRI
  | .loadRR _ _ => .aluRR
  | .loadRI _ _ => .aluRI
  | .mulRR _ _ => .aluRR
  | .mulRI _ _ => .aluRI
  | .mulsRR _ _ => .aluRR
  | .mulsRI _ _ => .aluRI
  | .divRR _ _ => .aluRR
  | .divRI _ _ => .aluRI
  | .divsRR _ _ => .aluRR
  | .divsRI _ _ => .aluRI
  | .bsl _ _ => .aluBS
  | .bsr _ _ => .aluBS
  | .fmul _ _ => .aluFP2
  | .fdiv _ _ => .aluFP2
  | .fadd _ _ => .aluFP2
  | .fsub _ _ => .aluFP2
  | .fcmp _ _ => .aluFP2
  | .fint _ => .aluFP1
  | .fflt _ => .aluFP1
  | .jump _ => .fcAbs
  | .jumpNz _ => .fcAbs
  | .jumpZ _ => .fcAbs
  | .jumpNc _ => .fcAbs
  | .jumpC _ => .fcAbs
  | .jumpRel _ => .fcRel
  | .jumpRelNz _ => .fcRel
  | .jumpRelZ _ => .fcRel
  | .jumpRelNc _ => .fcRel
  | .jumpRelC _ => .fcRel
  | .call _ => .fcAbs
  | .callNz _ => .fcAbs
  | .callZ _ => .fcAbs
  | .callNc _ => .fcAbs
  | .callC _ => .fcAbs
  | .callRel _ => .fcRel
  | .callRelNz _ => .fcRel
  | .callRelZ _ => .fcRel
  | .callRelNc _ => .fcRel
  | .callRelC _ => .fcRel
  | .svc => .fcSys
  | .ret => .fcSys
  | .reti => .fcSys
  | .rete => .fcSys
  | .ldwAbs _ _ => .ioAbsW
  | .ldwIdx _ _ _ => .ioIdx
  | .ldspr _ _ => .ioSpr
  | .incpr _ => .ioIdOp
  | .wincpr _ => .ioIdOp
  | .decpr _ => .ioIdOp
  | .wdecpr _ => .ioIdOp
  | .ldpid _ => .ioPid
  | .ldtlb _ _ => .ioTlb
  | .stwAbs _ _ => .ioAbsW
  | .stwIdx _ _ _ => .ioIdx
  | .stspr _ _ => .ioSpr
  | .ldbAbs _ _ => .ioAbsB
  | .ldbIdx _ _ _ => .ioIdx
  | .stbAbs _ _ => .ioAbsB
  | .stbIdx _ _ _ => .ioIdx

/-- The unit column of spec/30_encoding.md R120. -/
def Instr.unit : Instr → ExecUnit
  | .imm _ => .main
  | .addRR _ _ => .integer
  | .addRI _ _ => .integer
  | .adcRR _ _ => .integer
  | .adcRI _ _ => .integer
  | .subRR _ _ => .integer
  | .subRI _ _ => .integer
  | .sbbRR _ _ => .integer
  | .sbbRI _ _ => .integer
  | .andRR _ _ => .integer
  | .andRI _ _ => .integer
  | .orRR _ _ => .integer
  | .orRI _ _ => .integer
  | .xorRR _ _ => .integer
  | .xorRI _ _ => .integer
  | .sla _ => .integer
  | .slx _ => .integer
  | .sl0 _ => .integer
  | .sl1 _ => .integer
  | .rl _ => .integer
  | .sra _ => .integer
  | .srx _ => .integer
  | .sr0 _ => .integer
  | .sr1 _ => .integer
  | .rr _ => .integer
  | .cmpRR _ _ => .integer
  | .cmpRI _ _ => .integer
  | .testRR _ _ => .integer
  | .testRI _ _ => .integer
  | .loadRR _ _ => .integer
  | .loadRI _ _ => .integer
  | .mulRR _ _ => .integer
  | .mulRI _ _ => .integer
  | .mulsRR _ _ => .integer
  | .mulsRI _ _ => .integer
  | .divRR _ _ => .integer
  | .divRI _ _ => .integer
  | .divsRR _ _ => .integer
  | .divsRI _ _ => .integer
  | .bsl _ _ => .barrel
  | .bsr _ _ => .barrel
  | .fmul _ _ => .float
  | .fdiv _ _ => .float
  | .fadd _ _ => .float
  | .fsub _ _ => .float
  | .fcmp _ _ => .float
  | .fint _ => .float
  | .fflt _ => .float
  | .jump _ => .none
  | .jumpNz _ => .none
  | .jumpZ _ => .none
  | .jumpNc _ => .none
  | .jumpC _ => .none
  | .jumpRel _ => .none
  | .jumpRelNz _ => .none
  | .jumpRelZ _ => .none
  | .jumpRelNc _ => .none
  | .jumpRelC _ => .none
  | .call _ => .none
  | .callNz _ => .none
  | .callZ _ => .none
  | .callNc _ => .none
  | .callC _ => .none
  | .callRel _ => .none
  | .callRelNz _ => .none
  | .callRelZ _ => .none
  | .callRelNc _ => .none
  | .callRelC _ => .none
  | .svc => .none
  | .ret => .none
  | .reti => .none
  | .rete => .none
  | .ldwAbs _ _ => .none
  | .ldwIdx _ _ _ => .none
  | .ldspr _ _ => .none
  | .incpr _ => .none
  | .wincpr _ => .none
  | .decpr _ => .none
  | .wdecpr _ => .none
  | .ldpid _ => .none
  | .ldtlb _ _ => .none
  | .stwAbs _ _ => .none
  | .stwIdx _ _ _ => .none
  | .stspr _ _ => .none
  | .ldbAbs _ _ => .none
  | .ldbIdx _ _ _ => .none
  | .stbAbs _ _ => .none
  | .stbIdx _ _ _ => .none

/-- The formats whose operand an `imm` prefix extends: spec/30_encoding.md R110, R111, spec/60_exceptions.md R300 step 6. -/
def Format.takesPrefix : Format → Bool
  | .imm => false
  | .aluRR => false
  | .aluRI => true
  | .aluR1 => false
  | .aluBS => false
  | .aluFP2 => false
  | .aluFP1 => false
  | .fcAbs => true
  | .fcRel => false
  | .fcSys => false
  | .ioAbsW => true
  | .ioIdx => false
  | .ioSpr => false
  | .ioIdOp => false
  | .ioPid => false
  | .ioTlb => false
  | .ioAbsB => true

end Sys2Proof
end

