-- ==== Sys2Proof/WellFormed.lean ====
section
/-! DEFINITION. Which terms of `Instr` are instructions of the machine. Every field but one has exactly the values its
encoding admits by its type; the register of the absolute loads and stores is one bit of the word, so only `r0` and
`r1` can be named (spec/10_state.md R21, spec/30_encoding.md R105, R114). -/

namespace Sys2Proof

/-- `r0` or `r1`, the registers of the absolute forms. -/
def isLowReg (x : RegNum) : Bool := x == 0#4 || x == 1#4

/-- The well-formed instructions. -/
def Instr.wf : Instr → Bool
  | .imm _ => true
  | .addRR _ _ => true
  | .addRI _ _ => true
  | .adcRR _ _ => true
  | .adcRI _ _ => true
  | .subRR _ _ => true
  | .subRI _ _ => true
  | .sbbRR _ _ => true
  | .sbbRI _ _ => true
  | .andRR _ _ => true
  | .andRI _ _ => true
  | .orRR _ _ => true
  | .orRI _ _ => true
  | .xorRR _ _ => true
  | .xorRI _ _ => true
  | .sla _ => true
  | .slx _ => true
  | .sl0 _ => true
  | .sl1 _ => true
  | .rl _ => true
  | .sra _ => true
  | .srx _ => true
  | .sr0 _ => true
  | .sr1 _ => true
  | .rr _ => true
  | .cmpRR _ _ => true
  | .cmpRI _ _ => true
  | .testRR _ _ => true
  | .testRI _ _ => true
  | .loadRR _ _ => true
  | .loadRI _ _ => true
  | .mulRR _ _ => true
  | .mulRI _ _ => true
  | .mulsRR _ _ => true
  | .mulsRI _ _ => true
  | .divRR _ _ => true
  | .divRI _ _ => true
  | .divsRR _ _ => true
  | .divsRI _ _ => true
  | .bsl _ _ => true
  | .bsr _ _ => true
  | .fmul _ _ => true
  | .fdiv _ _ => true
  | .fadd _ _ => true
  | .fsub _ _ => true
  | .fcmp _ _ => true
  | .fint _ => true
  | .fflt _ => true
  | .jump _ => true
  | .jumpNz _ => true
  | .jumpZ _ => true
  | .jumpNc _ => true
  | .jumpC _ => true
  | .jumpRel _ => true
  | .jumpRelNz _ => true
  | .jumpRelZ _ => true
  | .jumpRelNc _ => true
  | .jumpRelC _ => true
  | .call _ => true
  | .callNz _ => true
  | .callZ _ => true
  | .callNc _ => true
  | .callC _ => true
  | .callRel _ => true
  | .callRelNz _ => true
  | .callRelZ _ => true
  | .callRelNc _ => true
  | .callRelC _ => true
  | .svc => true
  | .ret => true
  | .reti => true
  | .rete => true
  | .ldwAbs x _ => isLowReg x
  | .ldwIdx _ _ _ => true
  | .ldspr _ _ => true
  | .incpr _ => true
  | .wincpr _ => true
  | .decpr _ => true
  | .wdecpr _ => true
  | .ldpid _ => true
  | .ldtlb _ _ => true
  | .stwAbs x _ => isLowReg x
  | .stwIdx _ _ _ => true
  | .stspr _ _ => true
  | .ldbAbs x _ => isLowReg x
  | .ldbIdx _ _ _ => true
  | .stbAbs x _ => isLowReg x
  | .stbIdx _ _ _ => true

end Sys2Proof
end

