-- ==== Sys2Proof/Decode.lean ====
section
/-! DEFINITION. Instruction words: the opcode map of spec/30_encoding.md R120 as rows of a mask and a pattern, the
strict decoder written from them (R125), the byte order of an instruction in memory (spec/20_memory.md R72, R76), and
the encoder, written from the bit patterns of R102 to R105. -/

namespace Sys2Proof

/-- Why bytes are no instruction. -/
inductive DecodeError where
  /-- The word matches no row of the opcode map; spec/30_encoding.md R125. Executing it raises IllegalOpcode. -/
  | illegalOpcode (w : Word)
  /-- Fewer than the two bytes of an instruction (spec/30_encoding.md R100). -/
  | tooShort
  deriving DecidableEq, Repr

/-- A 16-bit value from the two bytes at an address and the next; spec/20_memory.md R72. -/
def joinBytes (e : Endian) (first second : Byte) : Word :=
  match e with
  | .big => first ++ second
  | .little => second ++ first

/-- The byte of a 16-bit value that lies at the lower address; spec/20_memory.md R72. -/
def firstByte (e : Endian) (w : Word) : Byte :=
  match e with
  | .big => w.extractLsb' 8 8
  | .little => w.extractLsb' 0 8

/-- The byte of a 16-bit value that lies at the higher address; spec/20_memory.md R72. -/
def secondByte (e : Endian) (w : Word) : Byte :=
  match e with
  | .big => w.extractLsb' 0 8
  | .little => w.extractLsb' 8 8

/-- A row of the opcode map: a word is the instruction when `w &&& mask = pattern`; spec/30_encoding.md R120. -/
structure Row where
  mask : Word
  pattern : Word
  build : Word → Instr

/-- The match condition of spec/30_encoding.md R120. -/
def Row.accepts (r : Row) (w : Word) : Bool := w &&& r.mask == r.pattern

/-- Row 1. spec/30_encoding.md R120. -/
def rowsPrefix : List Row := [
  ⟨0xC000#16, 0x0000#16, fun w => .imm (w.extractLsb' 0 14)⟩]

/-- Rows 2 to 15: add to xor. spec/30_encoding.md R120. -/
def rowsArith : List Row := [
  ⟨0xFF00#16, 0x4000#16, fun w => .addRR (w.extractLsb' 4 4) (w.extractLsb' 0 4)⟩,
  ⟨0xFF00#16, 0x6000#16, fun w => .addRI (w.extractLsb' 4 4) (w.extractLsb' 0 4)⟩,
  ⟨0xFF00#16, 0x5000#16, fun w => .adcRR (w.extractLsb' 4 4) (w.extractLsb' 0 4)⟩,
  ⟨0xFF00#16, 0x7000#16, fun w => .adcRI (w.extractLsb' 4 4) (w.extractLsb' 0 4)⟩,
  ⟨0xFF00#16, 0x4800#16, fun w => .subRR (w.extractLsb' 4 4) (w.extractLsb' 0 4)⟩,
  ⟨0xFF00#16, 0x6800#16, fun w => .subRI (w.extractLsb' 4 4) (w.extractLsb' 0 4)⟩,
  ⟨0xFF00#16, 0x5800#16, fun w => .sbbRR (w.extractLsb' 4 4) (w.extractLsb' 0 4)⟩,
  ⟨0xFF00#16, 0x7800#16, fun w => .sbbRI (w.extractLsb' 4 4) (w.extractLsb' 0 4)⟩,
  ⟨0xFF00#16, 0x4400#16, fun w => .andRR (w.extractLsb' 4 4) (w.extractLsb' 0 4)⟩,
  ⟨0xFF00#16, 0x6400#16, fun w => .andRI (w.extractLsb' 4 4) (w.extractLsb' 0 4)⟩,
  ⟨0xFF00#16, 0x5400#16, fun w => .orRR (w.extractLsb' 4 4) (w.extractLsb' 0 4)⟩,
  ⟨0xFF00#16, 0x7400#16, fun w => .orRI (w.extractLsb' 4 4) (w.extractLsb' 0 4)⟩,
  ⟨0xFF00#16, 0x4C00#16, fun w => .xorRR (w.extractLsb' 4 4) (w.extractLsb' 0 4)⟩,
  ⟨0xFF00#16, 0x6C00#16, fun w => .xorRI (w.extractLsb' 4 4) (w.extractLsb' 0 4)⟩]

/-- Rows 16 to 25: the single-bit shifts. spec/30_encoding.md R120. -/
def rowsShift : List Row := [
  ⟨0xFF0F#16, 0x5C00#16, fun w => .sla (w.extractLsb' 4 4)⟩,
  ⟨0xFF0F#16, 0x5C01#16, fun w => .slx (w.extractLsb' 4 4)⟩,
  ⟨0xFF0F#16, 0x5C02#16, fun w => .sl0 (w.extractLsb' 4 4)⟩,
  ⟨0xFF0F#16, 0x5C03#16, fun w => .sl1 (w.extractLsb' 4 4)⟩,
  ⟨0xFF0F#16, 0x5C04#16, fun w => .rl (w.extractLsb' 4 4)⟩,
  ⟨0xFF0F#16, 0x7C00#16, fun w => .sra (w.extractLsb' 4 4)⟩,
  ⟨0xFF0F#16, 0x7C01#16, fun w => .srx (w.extractLsb' 4 4)⟩,
  ⟨0xFF0F#16, 0x7C02#16, fun w => .sr0 (w.extractLsb' 4 4)⟩,
  ⟨0xFF0F#16, 0x7C03#16, fun w => .sr1 (w.extractLsb' 4 4)⟩,
  ⟨0xFF0F#16, 0x7C04#16, fun w => .rr (w.extractLsb' 4 4)⟩]

/-- Rows 26 to 39: cmp to divs. spec/30_encoding.md R120. -/
def rowsCompare : List Row := [
  ⟨0xFF00#16, 0x4200#16, fun w => .cmpRR (w.extractLsb' 4 4) (w.extractLsb' 0 4)⟩,
  ⟨0xFF00#16, 0x6200#16, fun w => .cmpRI (w.extractLsb' 4 4) (w.extractLsb' 0 4)⟩,
  ⟨0xFF00#16, 0x5200#16, fun w => .testRR (w.extractLsb' 4 4) (w.extractLsb' 0 4)⟩,
  ⟨0xFF00#16, 0x7200#16, fun w => .testRI (w.extractLsb' 4 4) (w.extractLsb' 0 4)⟩,
  ⟨0xFF00#16, 0x4A00#16, fun w => .loadRR (w.extractLsb' 4 4) (w.extractLsb' 0 4)⟩,
  ⟨0xFF00#16, 0x6A00#16, fun w => .loadRI (w.extractLsb' 4 4) (w.extractLsb' 0 4)⟩,
  ⟨0xFF00#16, 0x4600#16, fun w => .mulRR (w.extractLsb' 4 4) (w.extractLsb' 0 4)⟩,
  ⟨0xFF00#16, 0x6600#16, fun w => .mulRI (w.extractLsb' 4 4) (w.extractLsb' 0 4)⟩,
  ⟨0xFF00#16, 0x5600#16, fun w => .mulsRR (w.extractLsb' 4 4) (w.extractLsb' 0 4)⟩,
  ⟨0xFF00#16, 0x7600#16, fun w => .mulsRI (w.extractLsb' 4 4) (w.extractLsb' 0 4)⟩,
  ⟨0xFF00#16, 0x4E00#16, fun w => .divRR (w.extractLsb' 4 4) (w.extractLsb' 0 4)⟩,
  ⟨0xFF00#16, 0x6E00#16, fun w => .divRI (w.extractLsb' 4 4) (w.extractLsb' 0 4)⟩,
  ⟨0xFF00#16, 0x5E00#16, fun w => .divsRR (w.extractLsb' 4 4) (w.extractLsb' 0 4)⟩,
  ⟨0xFF00#16, 0x7E00#16, fun w => .divsRI (w.extractLsb' 4 4) (w.extractLsb' 0 4)⟩]

/-- Rows 40 and 41. spec/30_encoding.md R120. -/
def rowsBarrel : List Row := [
  ⟨0xFF00#16, 0x4100#16, fun w => .bsl (w.extractLsb' 4 4) (w.extractLsb' 0 4)⟩,
  ⟨0xFF00#16, 0x6100#16, fun w => .bsr (w.extractLsb' 4 4) (w.extractLsb' 0 4)⟩]

/-- Rows 42 to 48. spec/30_encoding.md R120. -/
def rowsFloat : List Row := [
  ⟨0xFFF0#16, 0x4300#16, fun w => .fmul (w.extractLsb' 2 2) (w.extractLsb' 0 2)⟩,
  ⟨0xFFF0#16, 0x6300#16, fun w => .fdiv (w.extractLsb' 2 2) (w.extractLsb' 0 2)⟩,
  ⟨0xFFF0#16, 0x5300#16, fun w => .fadd (w.extractLsb' 2 2) (w.extractLsb' 0 2)⟩,
  ⟨0xFFF0#16, 0x7300#16, fun w => .fsub (w.extractLsb' 2 2) (w.extractLsb' 0 2)⟩,
  ⟨0xFFF0#16, 0x4B00#16, fun w => .fcmp (w.extractLsb' 2 2) (w.extractLsb' 0 2)⟩,
  ⟨0xFFF3#16, 0x6B00#16, fun w => .fint (w.extractLsb' 2 2)⟩,
  ⟨0xFFF3#16, 0x5B00#16, fun w => .fflt (w.extractLsb' 2 2)⟩]

/-- Rows 49 to 58: the jumps. spec/30_encoding.md R120. -/
def rowsJump : List Row := [
  ⟨0xFE00#16, 0x8400#16, fun w => .jump (w.extractLsb' 0 9)⟩,
  ⟨0xFE00#16, 0x8000#16, fun w => .jumpNz (w.extractLsb' 0 9)⟩,
  ⟨0xFE00#16, 0x9000#16, fun w => .jumpZ (w.extractLsb' 0 9)⟩,
  ⟨0xFE00#16, 0x8800#16, fun w => .jumpNc (w.extractLsb' 0 9)⟩,
  ⟨0xFE00#16, 0x9800#16, fun w => .jumpC (w.extractLsb' 0 9)⟩,
  ⟨0xFE00#16, 0x8600#16, fun w => .jumpRel (w.extractLsb' 0 9)⟩,
  ⟨0xFE00#16, 0x8200#16, fun w => .jumpRelNz (w.extractLsb' 0 9)⟩,
  ⟨0xFE00#16, 0x9200#16, fun w => .jumpRelZ (w.extractLsb' 0 9)⟩,
  ⟨0xFE00#16, 0x8A00#16, fun w => .jumpRelNc (w.extractLsb' 0 9)⟩,
  ⟨0xFE00#16, 0x9A00#16, fun w => .jumpRelC (w.extractLsb' 0 9)⟩]

/-- Rows 59 to 68: the calls. spec/30_encoding.md R120. -/
def rowsCall : List Row := [
  ⟨0xFE00#16, 0xA400#16, fun w => .call (w.extractLsb' 0 9)⟩,
  ⟨0xFE00#16, 0xA000#16, fun w => .callNz (w.extractLsb' 0 9)⟩,
  ⟨0xFE00#16, 0xB000#16, fun w => .callZ (w.extractLsb' 0 9)⟩,
  ⟨0xFE00#16, 0xA800#16, fun w => .callNc (w.extractLsb' 0 9)⟩,
  ⟨0xFE00#16, 0xB800#16, fun w => .callC (w.extractLsb' 0 9)⟩,
  ⟨0xFE00#16, 0xA600#16, fun w => .callRel (w.extractLsb' 0 9)⟩,
  ⟨0xFE00#16, 0xA200#16, fun w => .callRelNz (w.extractLsb' 0 9)⟩,
  ⟨0xFE00#16, 0xB200#16, fun w => .callRelZ (w.extractLsb' 0 9)⟩,
  ⟨0xFE00#16, 0xAA00#16, fun w => .callRelNc (w.extractLsb' 0 9)⟩,
  ⟨0xFE00#16, 0xBA00#16, fun w => .callRelC (w.extractLsb' 0 9)⟩]

/-- Rows 69 to 72: svc and the returns. spec/30_encoding.md R120. -/
def rowsSystem : List Row := [
  ⟨0xFFFF#16, 0x9E00#16, fun _ => .svc⟩,
  ⟨0xFFFF#16, 0xBE00#16, fun _ => .ret⟩,
  ⟨0xFFFF#16, 0xBE01#16, fun _ => .reti⟩,
  ⟨0xFFFF#16, 0xBE02#16, fun _ => .rete⟩]

/-- Rows 73 to 88: class IO. spec/30_encoding.md R120. -/
def rowsIo : List Row := [
  ⟨0xFC00#16, 0xC000#16, fun w => .ldwAbs ((w.extractLsb' 9 1).setWidth 4) (w.extractLsb' 0 9)⟩,
  ⟨0xFC00#16, 0xC400#16, fun w => .ldwIdx (w.extractLsb' 6 4) (w.extractLsb' 4 2) (w.extractLsb' 0 4)⟩,
  ⟨0xFC70#16, 0xC800#16, fun w => .ldspr (w.extractLsb' 7 3) (w.extractLsb' 0 4)⟩,
  ⟨0xFFFC#16, 0xC820#16, fun w => .incpr (w.extractLsb' 0 2)⟩,
  ⟨0xFFFC#16, 0xC860#16, fun w => .wincpr (w.extractLsb' 0 2)⟩,
  ⟨0xFFFC#16, 0xC830#16, fun w => .decpr (w.extractLsb' 0 2)⟩,
  ⟨0xFFFC#16, 0xC870#16, fun w => .wdecpr (w.extractLsb' 0 2)⟩,
  ⟨0xFF0F#16, 0xCC00#16, fun w => .ldpid (w.extractLsb' 4 4)⟩,
  ⟨0xFF00#16, 0xCE00#16, fun w => .ldtlb (w.extractLsb' 5 3) (w.extractLsb' 0 5)⟩,
  ⟨0xFC00#16, 0xD000#16, fun w => .stwAbs ((w.extractLsb' 9 1).setWidth 4) (w.extractLsb' 0 9)⟩,
  ⟨0xFC00#16, 0xD400#16, fun w => .stwIdx (w.extractLsb' 6 4) (w.extractLsb' 4 2) (w.extractLsb' 0 4)⟩,
  ⟨0xFC70#16, 0xD800#16, fun w => .stspr (w.extractLsb' 7 3) (w.extractLsb' 0 4)⟩,
  ⟨0xF800#16, 0xE000#16, fun w => .ldbAbs ((w.extractLsb' 10 1).setWidth 4) (w.extractLsb' 0 10)⟩,
  ⟨0xFC00#16, 0xE800#16, fun w => .ldbIdx (w.extractLsb' 6 4) (w.extractLsb' 4 2) (w.extractLsb' 0 4)⟩,
  ⟨0xF800#16, 0xF000#16, fun w => .stbAbs ((w.extractLsb' 10 1).setWidth 4) (w.extractLsb' 0 10)⟩,
  ⟨0xFC00#16, 0xF800#16, fun w => .stbIdx (w.extractLsb' 6 4) (w.extractLsb' 4 2) (w.extractLsb' 0 4)⟩]

/-- The whole opcode map, 88 rows; spec/30_encoding.md R120. -/
def opcodeMap : List Row :=
  rowsPrefix ++ rowsArith ++ rowsShift ++ rowsCompare ++ rowsBarrel ++ rowsFloat ++ rowsJump ++ rowsCall ++ rowsSystem ++ rowsIo

/-- Strict decoding: the row the word matches, else an illegal opcode; spec/30_encoding.md R125. -/
def decodeWord (w : Word) : Except DecodeError Instr :=
  match opcodeMap.find? (fun r => r.accepts w) with
  | some r => .ok (r.build w)
  | none => .error (.illegalOpcode w)

/-- Decoding from bytes in memory order: the instruction and the bytes after it; spec/30_encoding.md R100,
spec/20_memory.md R76. -/
def decodeBytes (e : Endian) : List Byte → Except DecodeError (Instr × List Byte)
  | first :: second :: rest =>
    match decodeWord (joinBytes e first second) with
    | .ok i => .ok (i, rest)
    | .error r => .error r
  | _ => .error .tooShort

/-- The word of an instruction, from the patterns of spec/30_encoding.md R102 to R105 and R120, bit 15 first. -/
def encode : Instr → Word
  | .imm a => 0b00#2 ++ a
  | .addRR x y => 0b01000000#8 ++ x ++ y
  | .addRI x b => 0b01100000#8 ++ x ++ b
  | .adcRR x y => 0b01010000#8 ++ x ++ y
  | .adcRI x b => 0b01110000#8 ++ x ++ b
  | .subRR x y => 0b01001000#8 ++ x ++ y
  | .subRI x b => 0b01101000#8 ++ x ++ b
  | .sbbRR x y => 0b01011000#8 ++ x ++ y
  | .sbbRI x b => 0b01111000#8 ++ x ++ b
  | .andRR x y => 0b01000100#8 ++ x ++ y
  | .andRI x b => 0b01100100#8 ++ x ++ b
  | .orRR x y => 0b01010100#8 ++ x ++ y
  | .orRI x b => 0b01110100#8 ++ x ++ b
  | .xorRR x y => 0b01001100#8 ++ x ++ y
  | .xorRI x b => 0b01101100#8 ++ x ++ b
  | .sla x => 0b01011100#8 ++ x ++ 0b0000#4
  | .slx x => 0b01011100#8 ++ x ++ 0b0001#4
  | .sl0 x => 0b01011100#8 ++ x ++ 0b0010#4
  | .sl1 x => 0b01011100#8 ++ x ++ 0b0011#4
  | .rl x => 0b01011100#8 ++ x ++ 0b0100#4
  | .sra x => 0b01111100#8 ++ x ++ 0b0000#4
  | .srx x => 0b01111100#8 ++ x ++ 0b0001#4
  | .sr0 x => 0b01111100#8 ++ x ++ 0b0010#4
  | .sr1 x => 0b01111100#8 ++ x ++ 0b0011#4
  | .rr x => 0b01111100#8 ++ x ++ 0b0100#4
  | .cmpRR x y => 0b01000010#8 ++ x ++ y
  | .cmpRI x b => 0b01100010#8 ++ x ++ b
  | .testRR x y => 0b01010010#8 ++ x ++ y
  | .testRI x b => 0b01110010#8 ++ x ++ b
  | .loadRR x y => 0b01001010#8 ++ x ++ y
  | .loadRI x b => 0b01101010#8 ++ x ++ b
  | .mulRR x y => 0b01000110#8 ++ x ++ y
  | .mulRI x b => 0b01100110#8 ++ x ++ b
  | .mulsRR x y => 0b01010110#8 ++ x ++ y
  | .mulsRI x b => 0b01110110#8 ++ x ++ b
  | .divRR x y => 0b01001110#8 ++ x ++ y
  | .divRI x b => 0b01101110#8 ++ x ++ b
  | .divsRR x y => 0b01011110#8 ++ x ++ y
  | .divsRI x b => 0b01111110#8 ++ x ++ b
  | .bsl x b => 0b01000001#8 ++ x ++ b
  | .bsr x b => 0b01100001#8 ++ x ++ b
  | .fmul u v => 0b010000110000#12 ++ u ++ v
  | .fdiv u v => 0b011000110000#12 ++ u ++ v
  | .fadd u v => 0b010100110000#12 ++ u ++ v
  | .fsub u v => 0b011100110000#12 ++ u ++ v
  | .fcmp u v => 0b010010110000#12 ++ u ++ v
  | .fint u => 0b011010110000#12 ++ u ++ 0b00#2
  | .fflt u => 0b010110110000#12 ++ u ++ 0b00#2
  | .jump c => 0b1000010#7 ++ c
  | .jumpNz c => 0b1000000#7 ++ c
  | .jumpZ c => 0b1001000#7 ++ c
  | .jumpNc c => 0b1000100#7 ++ c
  | .jumpC c => 0b1001100#7 ++ c
  | .jumpRel c => 0b1000011#7 ++ c
  | .jumpRelNz c => 0b1000001#7 ++ c
  | .jumpRelZ c => 0b1001001#7 ++ c
  | .jumpRelNc c => 0b1000101#7 ++ c
  | .jumpRelC c => 0b1001101#7 ++ c
  | .call c => 0b1010010#7 ++ c
  | .callNz c => 0b1010000#7 ++ c
  | .callZ c => 0b1011000#7 ++ c
  | .callNc c => 0b1010100#7 ++ c
  | .callC c => 0b1011100#7 ++ c
  | .callRel c => 0b1010011#7 ++ c
  | .callRelNz c => 0b1010001#7 ++ c
  | .callRelZ c => 0b1011001#7 ++ c
  | .callRelNc c => 0b1010101#7 ++ c
  | .callRelC c => 0b1011101#7 ++ c
  | .svc => 0b1001111000000000#16
  | .ret => 0b1011111000000000#16
  | .reti => 0b1011111000000001#16
  | .rete => 0b1011111000000010#16
  | .ldwAbs x c => 0b110000#6 ++ x.setWidth 1 ++ c
  | .ldwIdx x y b => 0b110001#6 ++ x ++ y ++ b
  | .ldspr x y => 0b110010#6 ++ x ++ 0b000#3 ++ y
  | .incpr y => 0b11001000001000#14 ++ y
  | .wincpr y => 0b11001000011000#14 ++ y
  | .decpr y => 0b11001000001100#14 ++ y
  | .wdecpr y => 0b11001000011100#14 ++ y
  | .ldpid x => 0b11001100#8 ++ x ++ 0b0000#4
  | .ldtlb x d => 0b11001110#8 ++ x ++ d
  | .stwAbs x c => 0b110100#6 ++ x.setWidth 1 ++ c
  | .stwIdx x y b => 0b110101#6 ++ x ++ y ++ b
  | .stspr x y => 0b110110#6 ++ x ++ 0b000#3 ++ y
  | .ldbAbs x e => 0b11100#5 ++ x.setWidth 1 ++ e
  | .ldbIdx x y b => 0b111010#6 ++ x ++ y ++ b
  | .stbAbs x e => 0b11110#5 ++ x.setWidth 1 ++ e
  | .stbIdx x y b => 0b111110#6 ++ x ++ y ++ b

/-- The bytes of an instruction in memory order. -/
def encodeBytes (e : Endian) (i : Instr) : List Byte :=
  [firstByte e (encode i), secondByte e (encode i)]

/-- The instruction word the opcode table's numbering gives: the low `nbits` bits of `w`, every bit above them 0. -/
def tableWord (nbits w : Nat) : Word := BitVec.ofNat 16 (w % 2 ^ nbits)

/-- What the decoder reads from the table's bits `w`, laid out as bytes in the default byte order. -/
def decodeTableWord (nbits w : Nat) : Option Instr :=
  match decodeBytes .big [firstByte .big (tableWord nbits w), secondByte .big (tableWord nbits w)] with
  | .ok (i, _) => some i
  | .error _ => none

end Sys2Proof
end

