-- ==== Sys2Proof/Machine/State.lean ====
section
/-! DEFINITION. The state of the machine as plain data (spec/10_state.md), the reasons a step can stop, the exceptions,
and the state after reset (spec/70_reset_and_hazards.md R350). -/

namespace Sys2Proof.Machine

/-- Why the machine stops with a fault. -/
inductive Fault where
  /-- Raised by `step` in a state whose `pc` is odd, which is no state of the machine ("bit 0 of `pc` is always 0",
  spec/10_state.md R25) and which no step from an even `pc` reaches. Safe (log 19). -/
  | pcOdd
  deriving DecidableEq, Repr

/-- Where the spec says REFUSE (spec/00_scope.md R11): it gives the step no meaning. All are safe: the model stops
where the hardware does something the spec declines to guess. -/
inductive Refusal where
  /-- An instruction whose arm of `exec` has no meaning yet; no arm is one. -/
  | notModelled (mnemonic : String)
  /-- Raised by `step`: a step with `MSR.VM = 1`; spec/20_memory.md R84 (log 12). -/
  | virtualMode
  /-- Raised where an exception is raised with `MSR.E = 0`; spec/60_exceptions.md R306 (log 13). -/
  | exceptionDisabled
  /-- Raised where an exception is raised, and by `svc`, with `MSR.EIP = 1`; spec/60_exceptions.md R307 (log 13). -/
  | nestedTrap
  /-- Raised by a privileged instruction with `MSR.UM = 1`; spec/60_exceptions.md R321 (log 14). -/
  | privileged
  /-- Raised by an instruction no `imm` extends, executed with a prefix pending, when `IMM_UNDOCUMENTED = refuse`;
  spec/30_encoding.md R112 (log 15). -/
  | undocumentedPrefix
  /-- Raised by an instruction of an absent unit when `UNIT_ABSENT_POLICY = refuse`; spec/30_encoding.md R126 (log 16). -/
  | unitAbsent
  /-- Raised by `ldspr` and `stspr` of `FP0` to `FP3` without an FPU; spec/10_state.md R31, R32 (log 16). -/
  | fpRegisterAbsent
  /-- Raised by a fetch, load or store the platform does not admit; spec/20_memory.md R80 (log 5). -/
  | notAdmitted (k : AccessKind) (a : Addr)
  /-- Raised by `step`: the fetch of a byte stored to since reset; spec/20_memory.md R91 (log 17). -/
  | fetchOfStored (a : Addr)
  deriving DecidableEq, Repr

/-- The three exceptions; spec/60_exceptions.md R301 to R303. -/
inductive Exc where
  | divByZero
  | unaligned (a : Addr)
  | illegalOpcode
  deriving DecidableEq, Repr

/-- The sixteen special purpose registers by name; spec/10_state.md R30. -/
inductive Spr where
  | msr | lr | ilr | elr | cc | vbar | ear | ctx
  | index (y : BitVec 2)
  | fp (u : BitVec 2)
  deriving DecidableEq, Repr

/-- The machine status register as its fields; the reserved bits have no storage. spec/10_state.md R33. -/
structure Msr where
  /-- bit 0, interrupts enabled -/
  i : Bool
  /-- bit 1, exceptions enabled -/
  e : Bool
  /-- bit 2, MMU enabled -/
  vm : Bool
  /-- bit 3, user mode -/
  um : Bool
  /-- bit 4, saved `VM` -/
  vms : Bool
  /-- bit 5, saved `UM` -/
  ums : Bool
  /-- bits 19:16, exception code -/
  ec : BitVec 4
  /-- bit 29, zero flag -/
  z : Bool
  /-- bit 30, carry flag -/
  c : Bool
  /-- bit 31, exception in progress -/
  eip : Bool
  deriving DecidableEq, Repr

/-- Memory as (address, byte) pairs; an unlisted address reads `Config.blankByte`. spec/20_memory.md R70. -/
abbrev Memory := List Host.Cell

/-- The canonical form of memory: addresses strictly rising and below 2^24, no entry equal to what an unlisted
address reads as. -/
def Memory.wf (m : Memory) : Bool :=
  decide ((m.map Prod.fst).Pairwise (· < ·)) && m.all (fun c => decide (c.1 < 2 ^ 24) && c.2 != Config.blankByte)

/-- The machine. Every field but `cfg`, `irq`, `deviceLog` and `draws`, the model's own, is named by spec/10_state.md or,
for `stored`, by spec/20_memory.md R91. -/
structure State where
  /-- the build's parameters (spec/00_scope.md R5), written by no step (log 1) -/
  cfg : Config
  /-- `r0` to `rf`; R20 -/
  regs : Vector Word 16
  /-- the program counter; R25 -/
  pc : Addr
  /-- `spr0`; R33 -/
  msr : Msr
  /-- `spr1`; R35 -/
  lr : Long
  /-- `spr2`; R35 -/
  ilr : Long
  /-- `spr3`; R35 -/
  elr : Long
  /-- `spr4`; R36 -/
  cc : Long
  /-- bits 23:1 of `spr5`, the 23 bits it stores; R31, R32 -/
  vbar : BitVec 23
  /-- `spr6`; R30 -/
  ear : Long
  /-- `spr7`; R37 -/
  ctx : Long
  /-- `spr8` to `sprb`, `ID0` to `ID3`; R38 -/
  ids : Vector Long 4
  /-- `sprc` to `sprf`, `FP0` to `FP3`; R39 -/
  fps : Vector Long 4
  /-- the PID register; R40 -/
  pid : BitVec 6
  /-- the TLB entries; R40 -/
  tlb : Vector Long 32
  /-- a prefix is pending; R45 -/
  immv : Bool
  /-- the prefix's field; R45 -/
  imma : BitVec 14
  /-- the 2^24 bytes; R42 -/
  mem : Memory
  /-- the addresses of the bytes stored to since reset, strictly rising; spec/20_memory.md R91 -/
  stored : List Nat
  /-- the values `irq` will have at the coming boundaries, 0 after the last (log 7); R46 -/
  irq : List Bool
  /-- the accesses made to devices since reset, the latest first, on which what a device read gives depends (log 6) -/
  deviceLog : List DeviceAccess
  /-- the index of the next free value (log 8) -/
  draws : Nat
  deriving DecidableEq, Repr

/-- The MSR with the fields a 32-bit value gives it, all of them; the value's reserved bits are dropped, and a reserved
exception code is kept (log 21). spec/10_state.md R31, R33. -/
def Msr.ofLong (v : Long) : Msr where
  i := v.getLsbD 0
  e := v.getLsbD 1
  vm := v.getLsbD 2
  um := v.getLsbD 3
  vms := v.getLsbD 4
  ums := v.getLsbD 5
  ec := v.extractLsb' 16 4
  z := v.getLsbD 29
  c := v.getLsbD 30
  eip := v.getLsbD 31

/-- The state right after reset of a build with the parameters `c`: `MSR`, `VBAR`, the latch and `pc` as
spec/70_reset_and_hazards.md R350 says, every register it leaves without a value at 0 (DESIGN CHOICE, log 2, unsafe),
memory with nothing listed (log 3), no interrupt request to come (log 7), no device accessed. -/
def State.resetOf (c : Config) : State where
  cfg := c
  regs := Vector.replicate 16 0#16
  pc := (c.resetVbar.extractLsb' 1 23 ++ 0#1 : BitVec 24)
  msr := Msr.ofLong c.resetMsr
  lr := 0#32
  ilr := 0#32
  elr := 0#32
  cc := 0#32
  vbar := c.resetVbar.extractLsb' 1 23
  ear := 0#32
  ctx := 0#32
  ids := Vector.replicate 4 0#32
  fps := Vector.replicate 4 0#32
  pid := 0#6
  tlb := Vector.replicate 32 0#32
  immv := false
  imma := 0#14
  mem := []
  stored := []
  irq := []
  deviceLog := []
  draws := 0

/-- The machine right after reset, with every parameter at its default; spec/70_reset_and_hazards.md R350. -/
def State.reset : State := State.resetOf {}

end Sys2Proof.Machine
end

