-- ==== Sys2Proof/Machine/Ops.lean ====
section
/-! DEFINITION. The named operations over memory, registers, the status register and the prefix latch; the entry into
an exception, `svc` and an interrupt, and the returns (spec/60_exceptions.md); and the guards every meaning starts
with (R300 steps 4, 6 and 7). -/

namespace Sys2Proof.Machine

/-- What a meaning answers. -/
abbrev Result := Host.Outcome State Fault Refusal

/-! ### Memory as data -/

/-- One byte. -/
def Memory.read : Memory → Nat → Byte
  | [], _ => Config.blankByte
  | (k, v) :: m, a => if k = a then v else Memory.read m a

/-- Memory without the entry of an address. -/
def Memory.erase (m : Memory) (a : Nat) : Memory := m.filter (fun c => c.1 != a)

/-- An entry put before the first larger address. -/
def Memory.insert : Memory → Nat → Byte → Memory
  | [], a, v => [(a, v)]
  | (k, w) :: m, a, v => if a < k then (a, v) :: (k, w) :: m else (k, w) :: Memory.insert m a v

/-- Writing one byte; the value an unlisted address reads as removes the entry. -/
def Memory.write (m : Memory) (a : Nat) (v : Byte) : Memory :=
  if v = Config.blankByte then m.erase a else (m.erase a).insert a v

/-- An address added to the strictly rising list of the addresses stored to. -/
def markAddr : List Nat → Nat → List Nat
  | [], a => [a]
  | k :: l, a => if a < k then a :: k :: l else if a = k then k :: l else k :: markAddr l a

/-! ### Registers -/

/-- `x[r]`; spec/00_scope.md R8. -/
def State.reg (s : State) (r : RegNum) : Word := s.regs[r.toNat]'(r.isLt)

/-- `x[r] <- v`; spec/00_scope.md R8. No register is hard-wired (spec/10_state.md R20). -/
def State.setReg (s : State) (r : RegNum) (v : Word) : State := { s with regs := s.regs.set r.toNat v r.isLt }

/-- `ID0` to `ID3`; spec/30_encoding.md R114. -/
def State.index (s : State) (y : BitVec 2) : Long := s.ids[y.toNat]'(y.isLt)

/-- A write of `ID0` to `ID3`. -/
def State.setIndex (s : State) (y : BitVec 2) (v : Long) : State := { s with ids := s.ids.set y.toNat v y.isLt }

/-- `FP0` to `FP3`; spec/30_encoding.md R114. -/
def State.fpr (s : State) (u : BitVec 2) : Long := s.fps[u.toNat]'(u.isLt)

/-- A write of `FP0` to `FP3`. -/
def State.setFpr (s : State) (u : BitVec 2) (v : Long) : State := { s with fps := s.fps.set u.toNat v u.isLt }

/-- A TLB entry; spec/10_state.md R40. -/
def State.tlbEntry (s : State) (d : BitVec 5) : Long := s.tlb[d.toNat]'(d.isLt)

/-- A write of a TLB entry; spec/46_io_spr_mmu.md R290. -/
def State.setTlb (s : State) (d : BitVec 5) (v : Long) : State := { s with tlb := s.tlb.set d.toNat v d.isLt }

/-- A write of the PID register; spec/46_io_spr_mmu.md R289. -/
def State.setPid (s : State) (v : BitVec 6) : State := { s with pid := v }

/-- A write of the program counter. -/
def State.setPc (s : State) (a : Addr) : State := { s with pc := a }

/-- `npc`, the address of the next instruction; spec/00_scope.md R13. -/
def State.npc (s : State) : Addr := s.pc + 2#24

/-- A write of the MSR's fields by the machine. -/
def State.setMsr (s : State) (m : Msr) : State := { s with msr := m }

/-- `Z <- z; C <- c`; spec/10_state.md R27. -/
def State.setFlags (s : State) (z c : Bool) : State := { s with msr := { s.msr with z := z, c := c } }

/-- A write of `LR`. -/
def State.setLr (s : State) (v : Long) : State := { s with lr := v }

/-- A write of `ILR`. -/
def State.setIlr (s : State) (v : Long) : State := { s with ilr := v }

/-- A write of `ELR`. -/
def State.setElr (s : State) (v : Long) : State := { s with elr := v }

/-- A write of `CC`, storage without effect; spec/10_state.md R36. -/
def State.setCc (s : State) (v : Long) : State := { s with cc := v }

/-- A write of the 23 stored bits of `VBAR`; spec/10_state.md R32. -/
def State.setVbar (s : State) (v : BitVec 23) : State := { s with vbar := v }

/-- A write of `EAR`. -/
def State.setEar (s : State) (v : Long) : State := { s with ear := v }

/-- A write of `CTX`, storage without effect; spec/10_state.md R37. -/
def State.setCtx (s : State) (v : Long) : State := { s with ctx := v }

/-- `immv <- 1; imma <- a`; spec/10_state.md R45. -/
def State.setLatch (s : State) (a : BitVec 14) : State := { s with immv := true, imma := a }

/-- `immv <- 0`; spec/10_state.md R45. -/
def State.dropLatch (s : State) : State := { s with immv := false }

/-- The next free value is used up (log 8). -/
def State.tick (s : State) : State := { s with draws := s.draws + 1 }

/-- A device was accessed (log 6). -/
def State.tell (s : State) (x : DeviceAccess) : State := { s with deviceLog := x :: s.deviceLog }

/-- The boundary's `irq` value is used up: the core does not latch it; spec/60_exceptions.md R310. -/
def State.popIrq (s : State) : State := { s with irq := s.irq.tail }

/-! ### Register pairs -/

/-- The even, first-named register of a pair; spec/00_scope.md R12. -/
def pairFirst (p : BitVec 3) : RegNum := p ++ 0#1

/-- The odd register of a pair; spec/00_scope.md R12. -/
def pairSecond (p : BitVec 3) : RegNum := p ++ 1#1

/-- `pair(p)`; spec/00_scope.md R12, with the halves swapped when `PAIR_HIGH_FIRST = false`. -/
def State.pair (s : State) (p : BitVec 3) : Long :=
  if s.cfg.pairHighFirst then s.reg (pairFirst p) ++ s.reg (pairSecond p)
  else s.reg (pairSecond p) ++ s.reg (pairFirst p)

/-- `pair(p) <- v`; spec/00_scope.md R12. -/
def State.setPair (s : State) (p : BitVec 3) (v : Long) : State :=
  if s.cfg.pairHighFirst then (s.setReg (pairFirst p) (v.extractLsb' 16 16)).setReg (pairSecond p) (v.extractLsb' 0 16)
  else (s.setReg (pairFirst p) (v.extractLsb' 0 16)).setReg (pairSecond p) (v.extractLsb' 16 16)

/-- The pair number of `re:rf`; spec/00_scope.md R12. -/
def pairReRf : BitVec 3 := 7#3

/-! ### Special purpose registers -/

/-- A bit as a one-bit value. -/
def bit (b : Bool) : BitVec 1 := BitVec.ofBool b

/-- The MSR as a 32-bit value, reserved bits 0; spec/10_state.md R31, R33. -/
def Msr.toLong (m : Msr) : Long :=
  bit m.eip ++ bit m.c ++ bit m.z ++ 0#9 ++ m.ec ++ 0#10 ++ bit m.ums ++ bit m.vms ++ bit m.um ++ bit m.vm ++ bit m.e ++ bit m.i

/-- The MSR after `stspr`: only the six rw fields change; spec/10_state.md R32. -/
def Msr.written (m : Msr) (v : Long) : Msr :=
  { m with
    i := v.getLsbD 0, e := v.getLsbD 1, vm := v.getLsbD 2, um := v.getLsbD 3, vms := v.getLsbD 4, ums := v.getLsbD 5 }

/-- The register an SPR number names; spec/10_state.md R30. -/
def sprOf (n : BitVec 4) : Spr :=
  match n.toNat with
  | 0 => .msr
  | 1 => .lr
  | 2 => .ilr
  | 3 => .elr
  | 4 => .cc
  | 5 => .vbar
  | 6 => .ear
  | 7 => .ctx
  | k => if k < 12 then .index (n.extractLsb' 0 2) else .fp (n.extractLsb' 0 2)

/-- The read view of an SPR; spec/10_state.md R31. -/
def State.readSpr (s : State) : Spr → Long
  | .msr => s.msr.toLong
  | .lr => s.lr
  | .ilr => s.ilr
  | .elr => s.elr
  | .cc => s.cc
  | .vbar => 0#8 ++ s.vbar ++ 0#1
  | .ear => s.ear
  | .ctx => s.ctx
  | .index y => s.index y
  | .fp u => s.fpr u

/-- The write view of an SPR; spec/10_state.md R32. -/
def State.writeSpr (s : State) (r : Spr) (v : Long) : State :=
  match r with
  | .msr => s.setMsr (s.msr.written v)
  | .lr => s.setLr v
  | .ilr => s.setIlr v
  | .elr => s.setElr v
  | .cc => s.setCc v
  | .vbar => s.setVbar (v.extractLsb' 1 23)
  | .ear => s.setEar v
  | .ctx => s.setCtx v
  | .index y => s.setIndex y v
  | .fp u => s.setFpr u v

/-- The SPRs user mode may not name: all but `LR`, the index and the FP registers; spec/60_exceptions.md R321. -/
def Spr.kernelOnly : Spr → Bool
  | .msr => true
  | .lr => false
  | .ilr => true
  | .elr => true
  | .cc => true
  | .vbar => true
  | .ear => true
  | .ctx => true
  | .index _ => false
  | .fp _ => false

/-- The SPRs of the FPU; spec/10_state.md R39. -/
def Spr.isFp : Spr → Bool
  | .msr => false
  | .lr => false
  | .ilr => false
  | .elr => false
  | .cc => false
  | .vbar => false
  | .ear => false
  | .ctx => false
  | .index _ => false
  | .fp _ => true

/-! ### Memory accesses -/

/-- The byte at an address. -/
def State.byteAt (s : State) (a : Addr) : Byte := s.mem.read a.toNat

/-- `MemRead(a, 2)` of memory, in the byte order of the build; spec/20_memory.md R72. -/
def State.wordAt (s : State) (a : Addr) : Word := joinBytes s.cfg.endian (s.byteAt a) (s.byteAt (a + 1#24))

/-- `MemWrite(a, 1, v)` of memory. -/
def State.putByte (s : State) (a : Addr) (v : Byte) : State :=
  { s with mem := s.mem.write a.toNat v, stored := markAddr s.stored a.toNat }

/-- `MemWrite(a, 2, v)` of memory; spec/20_memory.md R72. -/
def State.putWord (s : State) (a : Addr) (v : Word) : State :=
  (s.putByte a (firstByte s.cfg.endian v)).putByte (a + 1#24) (secondByte s.cfg.endian v)

/-- A 16-bit write to a device: the marks of its two bytes, which spec/20_memory.md R91 asks for, and the access (log 6). -/
def State.sendWord (s : State) (a : Addr) (v : Word) : State :=
  { s with
    stored := markAddr (markAddr s.stored a.toNat) (a + 1#24).toNat
    deviceLog := .write .writeWord a v :: s.deviceLog }

/-- An 8-bit write to a device, in the same way. -/
def State.sendByte (s : State) (a : Addr) (v : Byte) : State :=
  { s with stored := markAddr s.stored a.toNat, deviceLog := .write .writeByte a (v.setWidth 16) :: s.deviceLog }

/-- What the platform has at an address for an access of this kind, if it admits it; spec/20_memory.md R80. -/
def State.regionKind (s : State) (k : AccessKind) (a : Addr) : Option RegionKind :=
  (s.cfg.platform.find? (fun r => r.takes k a.toNat)).map Region.kind

/-- A 16-bit read through the platform: memory's value, or from a device a free value that may depend on every earlier
access to a device (DESIGN CHOICE, log 6); spec/20_memory.md R80. -/
def State.loadWord (s : State) (k : AccessKind) (a : Addr) : Except Refusal (Word × State) :=
  match s.regionKind k a with
  | none => .error (.notAdmitted k a)
  | some .memory => .ok (s.wordAt a, s)
  | some .device => .ok (Config.deviceWord s.deviceLog k a, s.tell (.read k a))

/-- An 8-bit read through the platform, in the same way; spec/20_memory.md R80. -/
def State.loadByte (s : State) (a : Addr) : Except Refusal (Byte × State) :=
  match s.regionKind .readByte a with
  | none => .error (.notAdmitted .readByte a)
  | some .memory => .ok (s.byteAt a, s)
  | some .device => .ok (Config.deviceByte s.deviceLog a, s.tell (.read .readByte a))

/-- A 16-bit write through the platform; a write to a device changes nothing of the core's but the marks, and later
device reads may depend on it (DESIGN CHOICE, log 6); spec/20_memory.md R80. -/
def State.storeWord (s : State) (a : Addr) (v : Word) : Except Refusal State :=
  match s.regionKind .writeWord a with
  | none => .error (.notAdmitted .writeWord a)
  | some .memory => .ok (s.putWord a v)
  | some .device => .ok (s.sendWord a v)

/-- An 8-bit write through the platform, in the same way; spec/20_memory.md R80. -/
def State.storeByte (s : State) (a : Addr) (v : Byte) : Except Refusal State :=
  match s.regionKind .writeByte a with
  | none => .error (.notAdmitted .writeByte a)
  | some .memory => .ok (s.putByte a v)
  | some .device => .ok (s.sendByte a v)

/-- The instruction word at `pc`, refused where a byte of it was stored to; spec/20_memory.md R76, R91,
spec/60_exceptions.md R300 step 3. -/
def State.fetch (s : State) : Except Refusal (Word × State) :=
  if s.stored.contains s.pc.toNat || s.stored.contains (s.pc + 1#24).toNat then .error (.fetchOfStored s.pc)
  else s.loadWord .fetch s.pc

/-! ### Traps and returns -/

/-- `V`, the address of the vector table; spec/60_exceptions.md section 2. -/
def State.vectorBase (s : State) : Addr := s.vbar ++ 0#1

/-- `VMS <- VM; UMS <- UM; VM <- 0; UM <- 0`; spec/60_exceptions.md R305, R308, R311. -/
def Msr.saveModes (m : Msr) : Msr := { m with vms := m.vm, ums := m.um, vm := false, um := false }

/-- `VM <- VMS; UM <- UMS`; spec/60_exceptions.md R314. -/
def Msr.restoreModes (m : Msr) : Msr := { m with vm := m.vms, um := m.ums }

/-- The codes of `MSR.EC`; spec/60_exceptions.md R301 to R303. -/
def Exc.code : Exc → BitVec 4
  | .divByZero => 1#4
  | .unaligned _ => 2#4
  | .illegalOpcode => 3#4

/-- What `ELR` receives from an exception, by `TRAP_LINK`; spec/60_exceptions.md R305. -/
def State.trapLink (s : State) : Addr :=
  match s.cfg.trapLink with
  | .next => s.npc
  | .faulting => s.pc

/-- `EAR` after the entry of an exception; spec/60_exceptions.md R303, R305. -/
def State.earAfter (s : State) : Exc → Long
  | .divByZero => s.ear
  | .unaligned a => a.setWidth 32
  | .illegalOpcode => s.ear

/-- Taking an exception; spec/60_exceptions.md R305. -/
def State.enterException (s : State) (x : Exc) : State :=
  { s with
    elr := s.trapLink.setWidth 32
    msr := { s.msr.saveModes with ec := x.code, eip := true }
    ear := s.earAfter x
    immv := false
    pc := s.vectorBase + 8#24 }

/-- `raise X`: the entry, where exceptions are enabled and none is in progress; spec/60_exceptions.md R305 to R307. -/
def raise (x : Exc) (s : State) : Result :=
  if !s.msr.e then .refused .exceptionDisabled
  else if s.msr.eip then .refused .nestedTrap
  else .next (s.enterException x)

/-- Taking `svc`; spec/60_exceptions.md R308. -/
def State.enterSvc (s : State) : State :=
  { s with
    elr := s.npc.setWidth 32
    msr := { s.msr.saveModes with eip := true }
    immv := false
    pc := s.vectorBase + 12#24 }

/-- Interrupt entry; spec/60_exceptions.md R311. -/
def State.enterInterrupt (s : State) : State :=
  { s with
    ilr := s.pc.setWidth 32
    msr := { s.msr.saveModes with i := false }
    pc := s.vectorBase + 4#24 }

/-- `irq` at this boundary; spec/60_exceptions.md R310. -/
def State.irqNow (s : State) : Bool := s.irq.headD false

/-- An interrupt is taken at this boundary; spec/60_exceptions.md R311. -/
def State.interruptDue (s : State) : Bool := s.irqNow && s.msr.i && !s.msr.eip && !s.immv

/-- `{ v[23:1], 0 }`, the address a link register holds; spec/10_state.md R35. -/
def linkAddr (v : Long) : Addr := (v.extractLsb' 1 23 : BitVec 23) ++ 0#1

/-- Returning from an interrupt; spec/44_flow_control.md R246. -/
def State.leaveInterrupt (s : State) : State :=
  { s with pc := linkAddr s.ilr, msr := { s.msr.restoreModes with i := true }, immv := false }

/-- Returning from an exception or `svc`; spec/44_flow_control.md R247. -/
def State.leaveException (s : State) : State :=
  { s with pc := linkAddr s.elr, msr := { s.msr.restoreModes with eip := false }, immv := false }

/-! ### The frame of a meaning -/

/-- The instruction completes: the latch is consumed and `pc <- npc`; spec/60_exceptions.md R300 steps 5 and 8. -/
def complete (s : State) : Result := .next (s.dropLatch.setPc s.npc)

/-- An instruction no prefix extends: a pending prefix refuses it or is dropped; spec/30_encoding.md R112. -/
def unprefixed (s : State) (k : State → Result) : Result :=
  if s.immv then
    match s.cfg.immUndocumented with
    | .refuse => .refused .undocumentedPrefix
    | .ignore => k s.dropLatch
  else k s

/-- A privileged instruction; spec/60_exceptions.md R321. -/
def kernelOnly (s : State) (k : State → Result) : Result :=
  if s.msr.um then .refused .privileged else k s

/-- An instruction of an optional unit, whose words are illegal or refused when the unit is absent;
spec/30_encoding.md R126. -/
def needsUnit (present : Bool) (s : State) (k : State → Result) : Result :=
  if present then k s
  else
    match s.cfg.unitAbsent with
    | .illegal => raise .illegalOpcode s
    | .refuse => .refused .unitAbsent

end Sys2Proof.Machine
end

