-- ==== Sys2Proof/Machine/Operands.lean ====
section
/-! DEFINITION. The operand forms: the ALU immediate, the absolute and indexed addresses, the relative target
(spec/30_encoding.md R110, R111, R113; spec/44_flow_control.md R221, R222; spec/45_io_memory.md R260 to R262). -/

namespace Sys2Proof.Machine

/-- The immediate of an ALU instruction, made 16 bits by a prefix; spec/30_encoding.md R110. -/
def State.aluImm (s : State) (b : BitVec 4) : Word :=
  if s.immv then (s.imma.extractLsb' 0 12 : BitVec 12) ++ b else b.setWidth 16

/-- The absolute word address, also the absolute jump target; spec/30_encoding.md R111, spec/44_flow_control.md R221,
spec/45_io_memory.md R260. -/
def State.absWord (s : State) (c : BitVec 9) : Addr :=
  if s.immv then s.imma ++ c ++ 0#1 else (c ++ 0#1).setWidth 24

/-- The absolute byte address; spec/45_io_memory.md R261. -/
def State.absByte (s : State) (e : BitVec 10) : Addr :=
  if s.immv then s.imma ++ e else e.setWidth 24

/-- The indexed word address; spec/45_io_memory.md R262. -/
def State.indexedWord (s : State) (y : BitVec 2) (b : BitVec 4) : Addr :=
  (s.index y + 2#32 * b.setWidth 32).setWidth 24

/-- The indexed byte address; spec/45_io_memory.md R262. -/
def State.indexedByte (s : State) (y : BitVec 2) (b : BitVec 4) : Addr :=
  (s.index y + b.setWidth 32).setWidth 24

/-- The base of a relative target, by `REL_BASE`; spec/44_flow_control.md R222. -/
def State.relBase (s : State) : Addr :=
  match s.cfg.relBase with
  | .self => s.pc
  | .next => s.npc

/-- The relative target, by `REL_UNIT`; spec/44_flow_control.md R222. DEDUCED (log 18): with `REL_UNIT = 1` bit 0 of
the sum is cleared, since bit 0 of `pc` is always 0 (spec/10_state.md R25). -/
def State.relTarget (s : State) (c : BitVec 9) : Addr :=
  match s.cfg.relUnit with
  | .two => s.relBase + 2#24 * c.signExtend 24
  | .one => (s.relBase + c.signExtend 24) &&& 0xFFFFFE#24

end Sys2Proof.Machine
end

