-- ==== Sys2Proof/Machine/Flags.lean ====
section
/-! DEFINITION. The flag rules (spec/10_state.md R28, spec/41_alu_integer.md R190 to R193): for each kind of operation
its 16-bit result and carry, and the ways a result and its flags are written. -/

namespace Sys2Proof.Machine

/-- "the 16-bit result is zero"; spec/10_state.md R28. -/
def isZero (v : Word) : Bool := v == 0#16

/-- The exact sum `a + b + cin`, cut to 16 bits, and its bit 16; spec/41_alu_integer.md R152, R154. -/
def addCarry (a b : Word) (cin : Bool) : Word × Bool :=
  (BitVec.ofNat 16 (a.toNat + b.toNat + cin.toNat), (a.toNat + b.toNat + cin.toNat).testBit 16)

/-- The exact difference `a - b - bin`, cut to 16 bits, and whether it is negative; spec/41_alu_integer.md R156, R158. -/
def subBorrow (a b : Word) (bin : Bool) : Word × Bool :=
  (BitVec.ofInt 16 ((a.toNat : Int) - b.toNat - bin.toNat), decide ((a.toNat : Int) - b.toNat - bin.toNat < 0))

/-- `C` from a borrow; spec/41_alu_integer.md R191. -/
def State.carryOfBorrow (s : State) (borrow : Bool) : Bool :=
  if s.cfg.subCarryIsBorrow then borrow else !borrow

/-- The borrow `sbb` subtracts, from `C`; spec/41_alu_integer.md R191. -/
def State.borrowIn (s : State) : Bool :=
  if s.cfg.subCarryIsBorrow then s.msr.c else !s.msr.c

/-- `C` after logic and `test`; spec/41_alu_integer.md R192. -/
def State.logicCarry (s : State) : Bool :=
  if s.cfg.logicClearsCarry then false else s.msr.c

/-- A shift left by one: `{a[14:0], low}` and the bit that leaves; spec/41_alu_integer.md R193. -/
def shiftLeft (a : Word) (low : Bool) : Word × Bool := ((a.extractLsb' 0 15 : BitVec 15) ++ bit low, a.getLsbD 15)

/-- A shift right by one: `{high, a[15:1]}` and the bit that leaves; spec/41_alu_integer.md R193. -/
def shiftRight (a : Word) (high : Bool) : Word × Bool := (bit high ++ (a.extractLsb' 1 15 : BitVec 15), a.getLsbD 0)

/-- `bsl` by `b + 1`; spec/42_alu_barrel_shift.md R201. -/
def barrelLeft (a : Word) (b : BitVec 4) : Word × Bool :=
  (BitVec.ofNat 16 (a.toNat * 2 ^ (b.toNat + 1)), a.getLsbD (15 - b.toNat))

/-- `bsr` by `b + 1`; spec/42_alu_barrel_shift.md R202. -/
def barrelRight (a : Word) (b : BitVec 4) : Word × Bool :=
  (BitVec.ofNat 16 (a.toNat / 2 ^ (b.toNat + 1)), a.getLsbD b.toNat)

/-- A result into `rx` with `Z` from it and the carry given. -/
def State.putResult (s : State) (x : RegNum) (v : Word) (carry : Bool) : State :=
  (s.setReg x v).setFlags (isZero v) carry

/-- The flags of a result that is thrown away. -/
def State.putFlagsOf (s : State) (v : Word) (carry : Bool) : State := s.setFlags (isZero v) carry

/-- `Z <- UNSPECIFIED; C <- UNSPECIFIED`: both free (log 8); spec/10_state.md R28. -/
def State.freeFlags (s : State) : State :=
  (s.setFlags (Config.freeZ s.draws) (Config.freeC s.draws)).tick

end Sys2Proof.Machine
end

