-- ==== Sys2Proof/Machine/Barrel.lean ====
section
/-! DEFINITION. Class ALU, unit BS: the barrel shifter (spec/42_alu_barrel_shift.md). -/

namespace Sys2Proof.Machine

/-- `bsl rx, b`; spec/42_alu_barrel_shift.md R201. -/
def execBsl (x : RegNum) (b : BitVec 4) (s : State) : Result :=
  needsUnit s.cfg.hasBarrel s fun s => unprefixed s fun s =>
    complete (s.putResult x (barrelLeft (s.reg x) b).1 (barrelLeft (s.reg x) b).2)

/-- `bsr rx, b`; spec/42_alu_barrel_shift.md R202. -/
def execBsr (x : RegNum) (b : BitVec 4) (s : State) : Result :=
  needsUnit s.cfg.hasBarrel s fun s => unprefixed s fun s =>
    complete (s.putResult x (barrelRight (s.reg x) b).1 (barrelRight (s.reg x) b).2)

end Sys2Proof.Machine
end

