-- ==== Sys2Proof/Machine/Ieee.lean ====
section
/-! DEFINITION. The default instantiation of the seven floating-point functions (spec/43_alu_float.md R206): IEEE 754
binary32, round to nearest, ties to even, subnormals supported. PRESUMED (log 10): the spec takes the format and the
rules of the arithmetic from general knowledge. What its table leaves open is a free value (log 11). -/

namespace Sys2Proof.Machine

/-- The value of a binary32 word: `(-1)^negative * mantissa * 2^exponent`, an infinity, or not a number. -/
inductive FpValue where
  | nan
  | inf (negative : Bool)
  | finite (negative : Bool) (mantissa : Nat) (exponent : Int)
  deriving DecidableEq, Repr

/-- 1 sign bit, 8 exponent bits, 23 fraction bits; spec/43_alu_float.md R206. -/
def fpDecode (v : Long) : FpValue :=
  let negative := v.getLsbD 31
  let exponent := (v.extractLsb' 23 8).toNat
  let fraction := (v.extractLsb' 0 23).toNat
  if exponent = 255 then (if fraction = 0 then .inf negative else .nan)
  else if exponent = 0 then .finite negative fraction (-149)
  else .finite negative (2 ^ 23 + fraction) ((exponent : Int) - 150)

/-- A binary32 word from its three fields. -/
def fpWord (negative : Bool) (exponent fraction : Nat) : Long :=
  bit negative ++ BitVec.ofNat 8 exponent ++ BitVec.ofNat 23 fraction

/-- The signed infinity. -/
def fpInf (negative : Bool) : Long := fpWord negative 255 0

/-- `m / 2^shift` to the nearest natural number, ties to even; a negative shift multiplies exactly. -/
def roundShift (m : Nat) (shift : Int) : Nat :=
  if shift ≤ 0 then m * 2 ^ (-shift).toNat
  else
    let unit := 2 ^ shift.toNat
    let n := m / unit
    let rest := m % unit
    if unit < 2 * rest || (unit == 2 * rest && n % 2 == 1) then n + 1 else n

/-- The binary32 word nearest to `(-1)^negative * m * 2^e`, ties to even: a zero, a subnormal, a normal number or an
infinity. The quantum is the place of the last fraction bit, never below that of the subnormals. -/
def fpRound (negative : Bool) (m : Nat) (e : Int) : Long :=
  if m = 0 then fpWord negative 0 0
  else
    let quantum : Int := max ((Nat.log2 m : Int) + e - 23) (-149)
    let n := roundShift m (quantum - e)
    if n < 2 ^ 23 then fpWord negative 0 n
    else
      let n' := if n = 2 ^ 24 then 2 ^ 23 else n
      let q := if n = 2 ^ 24 then quantum + 1 else quantum
      if 255 ≤ q + 150 then fpInf negative else fpWord negative (q + 150).toNat (n' - 2 ^ 23)

/-- A quiet NaN whose sign and payload are free (log 11). -/
def fpNan (op : FpOp) (a b : Long) : Long :=
  bit (Config.nanSign op a b) ++ 0xFF#8 ++ 1#1 ++ Config.nanPayload op a b

/-- A mantissa with its sign. -/
def signed (negative : Bool) (m : Nat) : Int := if negative then -(m : Int) else m

/-- The sum of two values; `op a b` name the operation a NaN result comes from. -/
def fpSum (op : FpOp) (a b : Long) : FpValue → FpValue → Long
  | .nan, _ => fpNan op a b
  | _, .nan => fpNan op a b
  | .inf s, .inf t => if s == t then fpInf s else fpNan op a b
  | .inf s, .finite _ _ _ => fpInf s
  | .finite _ _ _, .inf t => fpInf t
  | .finite s m e, .finite t n f =>
    let low := min e f
    let sum := signed s (m * 2 ^ (e - low).toNat) + signed t (n * 2 ^ (f - low).toNat)
    if sum = 0 then fpWord (s && t && m == 0) 0 0 else fpRound (decide (sum < 0)) sum.natAbs low

/-- A value with its sign turned over. -/
def FpValue.negate : FpValue → FpValue
  | .nan => .nan
  | .inf s => .inf (!s)
  | .finite s m e => .finite (!s) m e

/-- `fp_add`; spec/43_alu_float.md R206. -/
def ieeeAdd (a b : Long) : Long := fpSum .add a b (fpDecode a) (fpDecode b)

/-- `fp_sub`; spec/43_alu_float.md R206. -/
def ieeeSub (a b : Long) : Long := fpSum .sub a b (fpDecode a) (fpDecode b).negate

/-- `fp_mul`; spec/43_alu_float.md R206. -/
def ieeeMul (a b : Long) : Long :=
  match fpDecode a, fpDecode b with
  | .nan, _ => fpNan .mul a b
  | _, .nan => fpNan .mul a b
  | .inf s, .inf t => fpInf (s != t)
  | .inf s, .finite t n _ => if n = 0 then fpNan .mul a b else fpInf (s != t)
  | .finite s m _, .inf t => if m = 0 then fpNan .mul a b else fpInf (s != t)
  | .finite s m e, .finite t n f => fpRound (s != t) (m * n) (e + f)

/-- `fp_div`: division by zero gives a signed infinity; spec/43_alu_float.md R206. The quotient is taken with 64 more
bits, the last of them set when something remains, so that rounding sees on which side of a tie it lies. -/
def ieeeDiv (a b : Long) : Long :=
  match fpDecode a, fpDecode b with
  | .nan, _ => fpNan .div a b
  | _, .nan => fpNan .div a b
  | .inf _, .inf _ => fpNan .div a b
  | .inf s, .finite t _ _ => fpInf (s != t)
  | .finite s _ _, .inf t => fpWord (s != t) 0 0
  | .finite s m e, .finite t n f =>
    if n = 0 then (if m = 0 then fpNan .div a b else fpInf (s != t))
    else
      let q := m * 2 ^ 64 / n
      let sticky := if m * 2 ^ 64 % n = 0 then 0 else 1
      fpRound (s != t) (2 * q + sticky) (e - f - 65)

/-- `fp_cmp`: equal, and less, both false if either is a NaN; spec/43_alu_float.md R206. -/
def ieeeCmp (a b : Long) : Bool × Bool :=
  match fpDecode a, fpDecode b with
  | .nan, _ => (false, false)
  | _, .nan => (false, false)
  | .inf s, .inf t => (s == t, s && !t)
  | .inf s, .finite _ _ _ => (false, s)
  | .finite _ _ _, .inf t => (false, !t)
  | .finite s m e, .finite t n f =>
    let low := min e f
    let l := signed s (m * 2 ^ (e - low).toNat)
    let r := signed t (n * 2 ^ (f - low).toNat)
    (decide (l = r), decide (l < r))

/-- The integer part of `m * 2^e`. -/
def truncated (m : Nat) (e : Int) : Nat := if 0 ≤ e then m * 2 ^ e.toNat else m / 2 ^ (-e).toNat

/-- `fp_to_int`: toward zero, a free value outside the range (log 11); spec/43_alu_float.md R206. -/
def ieeeToInt (a : Long) : Long :=
  match fpDecode a with
  | .nan => Config.fpToIntFree a
  | .inf _ => Config.fpToIntFree a
  | .finite s m e =>
    let i := signed s (truncated m e)
    if -2147483648 ≤ i ∧ i < 2147483648 then BitVec.ofInt 32 i else Config.fpToIntFree a

/-- `int_to_fp` of a 32-bit two's-complement integer; spec/43_alu_float.md R206. -/
def intToIeee (a : Long) : Long := fpRound (decide (a.toInt < 0)) a.toInt.natAbs 0

/-- `fp_add` of the build. -/
def State.fpAdd (s : State) (a b : Long) : Long :=
  match s.cfg.fpNumerics with
  | .ieee754 => ieeeAdd a b
  | .uninterpreted => Config.fpAdd a b

/-- `fp_sub` of the build. -/
def State.fpSub (s : State) (a b : Long) : Long :=
  match s.cfg.fpNumerics with
  | .ieee754 => ieeeSub a b
  | .uninterpreted => Config.fpSub a b

/-- `fp_mul` of the build. -/
def State.fpMul (s : State) (a b : Long) : Long :=
  match s.cfg.fpNumerics with
  | .ieee754 => ieeeMul a b
  | .uninterpreted => Config.fpMul a b

/-- `fp_div` of the build. -/
def State.fpDiv (s : State) (a b : Long) : Long :=
  match s.cfg.fpNumerics with
  | .ieee754 => ieeeDiv a b
  | .uninterpreted => Config.fpDiv a b

/-- `fp_cmp` of the build. -/
def State.fpCmp (s : State) (a b : Long) : Bool × Bool :=
  match s.cfg.fpNumerics with
  | .ieee754 => ieeeCmp a b
  | .uninterpreted => Config.fpCmp a b

/-- `fp_to_int` of the build. -/
def State.fpToInt (s : State) (a : Long) : Long :=
  match s.cfg.fpNumerics with
  | .ieee754 => ieeeToInt a
  | .uninterpreted => Config.fpToInt a

/-- `int_to_fp` of the build. -/
def State.intToFp (s : State) (a : Long) : Long :=
  match s.cfg.fpNumerics with
  | .ieee754 => intToIeee a
  | .uninterpreted => Config.intToFp a

end Sys2Proof.Machine
end

