-- ==== Sys2Proof/Machine/Float.lean ====
section
/-! DEFINITION. Class ALU, unit FP: the floating-point instructions (spec/43_alu_float.md). -/

namespace Sys2Proof.Machine

/-- An FP instruction: the unit is there and no prefix is pending; spec/43_alu_float.md R205. -/
def floatUnit (s : State) (k : State → Result) : Result :=
  needsUnit s.cfg.hasFpu s fun s => unprefixed s k

/-- `FPu` gets a value and the flags are free; spec/43_alu_float.md R207. -/
def floatTo (u : BitVec 2) (v : Long) (s : State) : Result := complete (s.setFpr u v).freeFlags

/-- `fmul FPu, FPv`; spec/43_alu_float.md R207. -/
def execFmul (u v : BitVec 2) (s : State) : Result :=
  floatUnit s fun s => floatTo u (s.fpMul (s.fpr u) (s.fpr v)) s

/-- `fdiv FPu, FPv`; spec/43_alu_float.md R208. -/
def execFdiv (u v : BitVec 2) (s : State) : Result :=
  floatUnit s fun s => floatTo u (s.fpDiv (s.fpr u) (s.fpr v)) s

/-- `fadd FPu, FPv`; spec/43_alu_float.md R209. -/
def execFadd (u v : BitVec 2) (s : State) : Result :=
  floatUnit s fun s => floatTo u (s.fpAdd (s.fpr u) (s.fpr v)) s

/-- `fsub FPu, FPv`; spec/43_alu_float.md R210. -/
def execFsub (u v : BitVec 2) (s : State) : Result :=
  floatUnit s fun s => floatTo u (s.fpSub (s.fpr u) (s.fpr v)) s

/-- `fcmp FPu, FPv`; spec/43_alu_float.md R211. -/
def execFcmp (u v : BitVec 2) (s : State) : Result :=
  floatUnit s fun s =>
    complete (s.setFlags (s.fpCmp (s.fpr u) (s.fpr v)).1 (s.fpCmp (s.fpr u) (s.fpr v)).2)

/-- `fint FPu`; spec/43_alu_float.md R212. -/
def execFint (u : BitVec 2) (s : State) : Result :=
  floatUnit s fun s => floatTo u (s.fpToInt (s.fpr u)) s

/-- `fflt FPu`; spec/43_alu_float.md R213. -/
def execFflt (u : BitVec 2) (s : State) : Result :=
  floatUnit s fun s => floatTo u (s.intToFp (s.fpr u)) s

end Sys2Proof.Machine
end

