-- ==== Sys2Proof/Machine/Flow.lean ====
section
/-! DEFINITION. Class FC: jumps, calls, svc and the returns (spec/44_flow_control.md). -/

namespace Sys2Proof.Machine

/-- `taken` of the condition suffixes; spec/44_flow_control.md R220. -/
inductive Cond where
  | always | nz | z | nc | c
  deriving DecidableEq, Repr

/-- Whether a condition holds; spec/44_flow_control.md R220. -/
def State.holds (s : State) : Cond → Bool
  | .always => true
  | .nz => !s.msr.z
  | .z => s.msr.z
  | .nc => !s.msr.c
  | .c => s.msr.c

/-- Every `jump` form; spec/44_flow_control.md R223. -/
def jumpIf (k : Cond) (target : Addr) (s : State) : Result :=
  .next (s.dropLatch.setPc (if s.holds k then target else s.npc))

/-- Every `call` form; spec/44_flow_control.md R223. -/
def callIf (k : Cond) (target : Addr) (s : State) : Result :=
  if s.holds k then .next ((s.dropLatch.setLr (s.npc.setWidth 32)).setPc target) else complete s

/-- `jump ccc`; spec/44_flow_control.md R224. -/
def execJump (c : BitVec 9) (s : State) : Result :=
  jumpIf .always (s.absWord c) s

/-- `jump nz ccc`; spec/44_flow_control.md R225. -/
def execJumpNz (c : BitVec 9) (s : State) : Result :=
  jumpIf .nz (s.absWord c) s

/-- `jump z ccc`; spec/44_flow_control.md R226. -/
def execJumpZ (c : BitVec 9) (s : State) : Result :=
  jumpIf .z (s.absWord c) s

/-- `jump nc ccc`; spec/44_flow_control.md R227. -/
def execJumpNc (c : BitVec 9) (s : State) : Result :=
  jumpIf .nc (s.absWord c) s

/-- `jump c ccc`; spec/44_flow_control.md R228. -/
def execJumpC (c : BitVec 9) (s : State) : Result :=
  jumpIf .c (s.absWord c) s

/-- `jump rel ccc`; spec/44_flow_control.md R229. -/
def execJumpRel (c : BitVec 9) (s : State) : Result :=
  unprefixed s fun s => jumpIf .always (s.relTarget c) s

/-- `jump rel nz ccc`; spec/44_flow_control.md R230. -/
def execJumpRelNz (c : BitVec 9) (s : State) : Result :=
  unprefixed s fun s => jumpIf .nz (s.relTarget c) s

/-- `jump rel z ccc`; spec/44_flow_control.md R231. -/
def execJumpRelZ (c : BitVec 9) (s : State) : Result :=
  unprefixed s fun s => jumpIf .z (s.relTarget c) s

/-- `jump rel nc ccc`; spec/44_flow_control.md R232. -/
def execJumpRelNc (c : BitVec 9) (s : State) : Result :=
  unprefixed s fun s => jumpIf .nc (s.relTarget c) s

/-- `jump rel c ccc`; spec/44_flow_control.md R233. -/
def execJumpRelC (c : BitVec 9) (s : State) : Result :=
  unprefixed s fun s => jumpIf .c (s.relTarget c) s

/-- `call ccc`; spec/44_flow_control.md R234. -/
def execCall (c : BitVec 9) (s : State) : Result :=
  callIf .always (s.absWord c) s

/-- `call nz ccc`; spec/44_flow_control.md R235. -/
def execCallNz (c : BitVec 9) (s : State) : Result :=
  callIf .nz (s.absWord c) s

/-- `call z ccc`; spec/44_flow_control.md R236. -/
def execCallZ (c : BitVec 9) (s : State) : Result :=
  callIf .z (s.absWord c) s

/-- `call nc ccc`; spec/44_flow_control.md R237. -/
def execCallNc (c : BitVec 9) (s : State) : Result :=
  callIf .nc (s.absWord c) s

/-- `call c ccc`; spec/44_flow_control.md R238. -/
def execCallC (c : BitVec 9) (s : State) : Result :=
  callIf .c (s.absWord c) s

/-- `call rel ccc`; spec/44_flow_control.md R239. -/
def execCallRel (c : BitVec 9) (s : State) : Result :=
  unprefixed s fun s => callIf .always (s.relTarget c) s

/-- `call rel nz ccc`; spec/44_flow_control.md R240. -/
def execCallRelNz (c : BitVec 9) (s : State) : Result :=
  unprefixed s fun s => callIf .nz (s.relTarget c) s

/-- `call rel z ccc`; spec/44_flow_control.md R241. -/
def execCallRelZ (c : BitVec 9) (s : State) : Result :=
  unprefixed s fun s => callIf .z (s.relTarget c) s

/-- `call rel nc ccc`; spec/44_flow_control.md R242. -/
def execCallRelNc (c : BitVec 9) (s : State) : Result :=
  unprefixed s fun s => callIf .nc (s.relTarget c) s

/-- `call rel c ccc`; spec/44_flow_control.md R243. -/
def execCallRelC (c : BitVec 9) (s : State) : Result :=
  unprefixed s fun s => callIf .c (s.relTarget c) s

/-- `svc`; spec/44_flow_control.md R244. -/
def execSvc (s : State) : Result :=
  unprefixed s fun s =>
    if s.msr.eip then .refused .nestedTrap else .next s.enterSvc

/-- `ret`; spec/44_flow_control.md R245. -/
def execRet (s : State) : Result :=
  unprefixed s fun s => .next (s.setPc (linkAddr s.lr))

/-- `reti`; spec/44_flow_control.md R246. -/
def execReti (s : State) : Result :=
  unprefixed s fun s => kernelOnly s fun s => .next s.leaveInterrupt

/-- `rete`; spec/44_flow_control.md R247. -/
def execRete (s : State) : Result :=
  unprefixed s fun s => kernelOnly s fun s => .next s.leaveException

end Sys2Proof.Machine
end

