-- ==== Sys2Proof/Machine/ImmPrefix.lean ====
section
/-! DEFINITION. Class IMM: the prefix (spec/40_imm_prefix.md). -/

namespace Sys2Proof.Machine

/-- `imm kkk`; spec/40_imm_prefix.md R140. A second `imm` is refused or replaces the
first, by `IMM_UNDOCUMENTED` (spec/30_encoding.md R112). -/
def execImm (a : BitVec 14) (s : State) : Result :=
  unprefixed s fun s => .next ((s.setLatch a).setPc s.npc)

end Sys2Proof.Machine
end

