-- ==== Sys2Proof/Machine/IntegerAlu.lean ====
section
/-! DEFINITION. Class ALU, unit IP: add to xor, cmp, test and load (spec/41_alu_integer.md). Each operation is written once over
its second operand; the two forms of an instruction give it the register or the immediate (R150). -/

namespace Sys2Proof.Machine

/-- `a + b2` into `rx`; spec/41_alu_integer.md R152. -/
def addWith (x : RegNum) (b2 : Word) (s : State) : Result :=
  let r := addCarry (s.reg x) b2 false
  complete (s.putResult x r.1 r.2)

/-- `a + b2 + C` into `rx`; spec/41_alu_integer.md R154. -/
def adcWith (x : RegNum) (b2 : Word) (s : State) : Result :=
  let r := addCarry (s.reg x) b2 s.msr.c
  complete (s.putResult x r.1 r.2)

/-- `a - b2` into `rx`; spec/41_alu_integer.md R156. -/
def subWith (x : RegNum) (b2 : Word) (s : State) : Result :=
  let r := subBorrow (s.reg x) b2 false
  complete (s.putResult x r.1 (s.carryOfBorrow r.2))

/-- `a - b2` less the borrow into `rx`; spec/41_alu_integer.md R158, R191. -/
def sbbWith (x : RegNum) (b2 : Word) (s : State) : Result :=
  let r := subBorrow (s.reg x) b2 s.borrowIn
  complete (s.putResult x r.1 (s.carryOfBorrow r.2))

/-- `a AND b2` into `rx`; spec/41_alu_integer.md R160. -/
def andWith (x : RegNum) (b2 : Word) (s : State) : Result :=
  complete (s.putResult x (s.reg x &&& b2) s.logicCarry)

/-- `a OR b2` into `rx`; spec/41_alu_integer.md R162. -/
def orWith (x : RegNum) (b2 : Word) (s : State) : Result :=
  complete (s.putResult x (s.reg x ||| b2) s.logicCarry)

/-- `a XOR b2` into `rx`; spec/41_alu_integer.md R164. -/
def xorWith (x : RegNum) (b2 : Word) (s : State) : Result :=
  complete (s.putResult x (s.reg x ^^^ b2) s.logicCarry)

/-- The flags of `a - b2`; spec/41_alu_integer.md R176. -/
def cmpWith (x : RegNum) (b2 : Word) (s : State) : Result :=
  let r := subBorrow (s.reg x) b2 false
  complete (s.putFlagsOf r.1 (s.carryOfBorrow r.2))

/-- The flags of `a AND b2`; spec/41_alu_integer.md R178. -/
def testWith (x : RegNum) (b2 : Word) (s : State) : Result :=
  complete (s.putFlagsOf (s.reg x &&& b2) s.logicCarry)

/-- `b2` into `rx`, no flag; spec/41_alu_integer.md R180. -/
def loadWith (x : RegNum) (b2 : Word) (s : State) : Result :=
  complete (s.setReg x b2)

/-- `add rx, ry`; spec/41_alu_integer.md R152. -/
def execAddRR (x y : RegNum) (s : State) : Result :=
  unprefixed s fun s => addWith x (s.reg y) s

/-- `add rx, kkk`; spec/41_alu_integer.md R153. -/
def execAddRI (x : RegNum) (b : BitVec 4) (s : State) : Result :=
  addWith x (s.aluImm b) s

/-- `adc rx, ry`; spec/41_alu_integer.md R154. -/
def execAdcRR (x y : RegNum) (s : State) : Result :=
  unprefixed s fun s => adcWith x (s.reg y) s

/-- `adc rx, kkk`; spec/41_alu_integer.md R155. -/
def execAdcRI (x : RegNum) (b : BitVec 4) (s : State) : Result :=
  adcWith x (s.aluImm b) s

/-- `sub rx, ry`; spec/41_alu_integer.md R156. -/
def execSubRR (x y : RegNum) (s : State) : Result :=
  unprefixed s fun s => subWith x (s.reg y) s

/-- `sub rx, kkk`; spec/41_alu_integer.md R157. -/
def execSubRI (x : RegNum) (b : BitVec 4) (s : State) : Result :=
  subWith x (s.aluImm b) s

/-- `sbb rx, ry`; spec/41_alu_integer.md R158. -/
def execSbbRR (x y : RegNum) (s : State) : Result :=
  unprefixed s fun s => sbbWith x (s.reg y) s

/-- `sbb rx, kkk`; spec/41_alu_integer.md R159. -/
def execSbbRI (x : RegNum) (b : BitVec 4) (s : State) : Result :=
  sbbWith x (s.aluImm b) s

/-- `and rx, ry`; spec/41_alu_integer.md R160. -/
def execAndRR (x y : RegNum) (s : State) : Result :=
  unprefixed s fun s => andWith x (s.reg y) s

/-- `and rx, kkk`; spec/41_alu_integer.md R161. -/
def execAndRI (x : RegNum) (b : BitVec 4) (s : State) : Result :=
  andWith x (s.aluImm b) s

/-- `or rx, ry`; spec/41_alu_integer.md R162. -/
def execOrRR (x y : RegNum) (s : State) : Result :=
  unprefixed s fun s => orWith x (s.reg y) s

/-- `or rx, kkk`; spec/41_alu_integer.md R163. -/
def execOrRI (x : RegNum) (b : BitVec 4) (s : State) : Result :=
  orWith x (s.aluImm b) s

/-- `xor rx, ry`; spec/41_alu_integer.md R164. -/
def execXorRR (x y : RegNum) (s : State) : Result :=
  unprefixed s fun s => xorWith x (s.reg y) s

/-- `xor rx, kkk`; spec/41_alu_integer.md R165. -/
def execXorRI (x : RegNum) (b : BitVec 4) (s : State) : Result :=
  xorWith x (s.aluImm b) s

/-- `cmp rx, ry`; spec/41_alu_integer.md R176. -/
def execCmpRR (x y : RegNum) (s : State) : Result :=
  unprefixed s fun s => cmpWith x (s.reg y) s

/-- `cmp rx, bbb`; spec/41_alu_integer.md R177. -/
def execCmpRI (x : RegNum) (b : BitVec 4) (s : State) : Result :=
  cmpWith x (s.aluImm b) s

/-- `test rx, ry`; spec/41_alu_integer.md R178. -/
def execTestRR (x y : RegNum) (s : State) : Result :=
  unprefixed s fun s => testWith x (s.reg y) s

/-- `test rx, bbb`; spec/41_alu_integer.md R179. -/
def execTestRI (x : RegNum) (b : BitVec 4) (s : State) : Result :=
  testWith x (s.aluImm b) s

/-- `load rx, ry`; spec/41_alu_integer.md R180. -/
def execLoadRR (x y : RegNum) (s : State) : Result :=
  unprefixed s fun s => loadWith x (s.reg y) s

/-- `load rx, bbb`; spec/41_alu_integer.md R181. -/
def execLoadRI (x : RegNum) (b : BitVec 4) (s : State) : Result :=
  loadWith x (s.aluImm b) s

end Sys2Proof.Machine
end

