-- ==== Sys2Proof/Machine/LoadStore.lean ====
section
/-! DEFINITION. Class IO: loads and stores (spec/45_io_memory.md). -/

namespace Sys2Proof.Machine

/-- The value `ldb` gives `rx`, by `LDB_HIGH`; spec/45_io_memory.md R267. -/
def State.loadedByte (s : State) (x : RegNum) (v : Byte) : Word :=
  match s.cfg.ldbHigh with
  | .zero => v.setWidth 16
  | .preserve => (s.reg x).extractLsb' 8 8 ++ v

/-- A word load from an even address; spec/45_io_memory.md R263. -/
def ldwFrom (x : RegNum) (ea : Addr) (s : State) : Result :=
  match s.loadWord .readWord ea with
  | .error r => .refused r
  | .ok (v, s) => complete (s.setReg x v)

/-- A word store to an even address; spec/45_io_memory.md R265. -/
def stwTo (x : RegNum) (ea : Addr) (s : State) : Result :=
  match s.storeWord ea (s.reg x) with
  | .error r => .refused r
  | .ok s => complete s

/-- A byte load; spec/45_io_memory.md R267. -/
def ldbFrom (x : RegNum) (ea : Addr) (s : State) : Result :=
  match s.loadByte ea with
  | .error r => .refused r
  | .ok (v, s) => complete (s.setReg x (s.loadedByte x v))

/-- A byte store of the low byte; spec/45_io_memory.md R269. -/
def stbTo (x : RegNum) (ea : Addr) (s : State) : Result :=
  match s.storeByte ea ((s.reg x).extractLsb' 0 8) with
  | .error r => .refused r
  | .ok s => complete s

/-- The alignment check of the indexed word forms; spec/20_memory.md R74. -/
def aligned (ea : Addr) (s : State) (k : State → Result) : Result :=
  if ea.getLsbD 0 then raise (.unaligned ea) s else k s

/-- `ldw r0/r1, ccc`; spec/45_io_memory.md R263. -/
def execLdwAbs (x : RegNum) (c : BitVec 9) (s : State) : Result :=
  ldwFrom x (s.absWord c) s

/-- `ldw rx, [IDy + 2b]`; spec/45_io_memory.md R264. -/
def execLdwIdx (x : RegNum) (y : BitVec 2) (b : BitVec 4) (s : State) : Result :=
  unprefixed s fun s => aligned (s.indexedWord y b) s fun s => ldwFrom x (s.indexedWord y b) s

/-- `stw r0/r1, ccc`; spec/45_io_memory.md R265. -/
def execStwAbs (x : RegNum) (c : BitVec 9) (s : State) : Result :=
  stwTo x (s.absWord c) s

/-- `stw rx, [IDy + 2b]`; spec/45_io_memory.md R266. -/
def execStwIdx (x : RegNum) (y : BitVec 2) (b : BitVec 4) (s : State) : Result :=
  unprefixed s fun s => aligned (s.indexedWord y b) s fun s => stwTo x (s.indexedWord y b) s

/-- `ldb r0/r1, [eee]`; spec/45_io_memory.md R267. -/
def execLdbAbs (x : RegNum) (e : BitVec 10) (s : State) : Result :=
  ldbFrom x (s.absByte e) s

/-- `ldb rx, [IDy + b]`; spec/45_io_memory.md R268. -/
def execLdbIdx (x : RegNum) (y : BitVec 2) (b : BitVec 4) (s : State) : Result :=
  unprefixed s fun s => ldbFrom x (s.indexedByte y b) s

/-- `stb r0/r1, [eee]`; spec/45_io_memory.md R269. -/
def execStbAbs (x : RegNum) (e : BitVec 10) (s : State) : Result :=
  stbTo x (s.absByte e) s

/-- `stb rx, [IDy + b]`; spec/45_io_memory.md R270. -/
def execStbIdx (x : RegNum) (y : BitVec 2) (b : BitVec 4) (s : State) : Result :=
  unprefixed s fun s => stbTo x (s.indexedByte y b) s

end Sys2Proof.Machine
end

