-- ==== Sys2Proof/Machine/MulDiv.lean ====
section
/-! DEFINITION. Class ALU, unit IP: multiply and divide (spec/41_alu_integer.md R182 to R189, R194, R195). -/

namespace Sys2Proof.Machine

/-- The exact unsigned product; spec/41_alu_integer.md R182. -/
def productUnsigned (a b : Word) : Long := BitVec.ofNat 32 (a.toNat * b.toNat)

/-- The exact signed product, modulo 2^32; spec/41_alu_integer.md R184. -/
def productSigned (a b : Word) : Long := BitVec.ofInt 32 (a.toInt * b.toInt)

/-- The floor of the unsigned quotient where it fits 16 bits, else a free value (log 9); spec/41_alu_integer.md R186. -/
def State.quotientUnsigned (s : State) (dividend : Long) (d : Word) : Word :=
  if dividend.toNat / d.toNat < 2 ^ 16 then BitVec.ofNat 16 (dividend.toNat / d.toNat)
  else Config.freeQuotient s.draws

/-- The signed quotient rounded toward zero where it fits 16 bits, else a free value (log 9);
spec/41_alu_integer.md R188. -/
def State.quotientSigned (s : State) (dividend : Long) (d : Word) : Word :=
  if -32768 ≤ Int.tdiv dividend.toInt d.toInt ∧ Int.tdiv dividend.toInt d.toInt < 32768 then
    BitVec.ofInt 16 (Int.tdiv dividend.toInt d.toInt)
  else Config.freeQuotient s.draws

/-- `re:rf` and free flags; spec/41_alu_integer.md R182, R184. -/
def multiplyTo (p : Long) (s : State) : Result := complete (s.setPair pairReRf p).freeFlags

/-- The divisor is checked, then `rx` gets the quotient of `re:rf`, and the flags are free; spec/41_alu_integer.md R186. -/
def divWith (x : RegNum) (d : Word) (s : State) : Result :=
  if d = 0#16 then raise .divByZero s
  else complete (s.setReg x (s.quotientUnsigned (s.pair pairReRf) d)).freeFlags

/-- The same with the signed quotient; spec/41_alu_integer.md R188. -/
def divsWith (x : RegNum) (d : Word) (s : State) : Result :=
  if d = 0#16 then raise .divByZero s
  else complete (s.setReg x (s.quotientSigned (s.pair pairReRf) d)).freeFlags

/-- `mul rx, ry`; spec/41_alu_integer.md R182. -/
def execMulRR (x y : RegNum) (s : State) : Result :=
  unprefixed s fun s => multiplyTo (productUnsigned (s.reg x) (s.reg y)) s

/-- `mul rx, bbb`; spec/41_alu_integer.md R183. -/
def execMulRI (x : RegNum) (b : BitVec 4) (s : State) : Result :=
  multiplyTo (productUnsigned (s.reg x) (s.aluImm b)) s

/-- `muls rx, ry`; spec/41_alu_integer.md R184. -/
def execMulsRR (x y : RegNum) (s : State) : Result :=
  unprefixed s fun s => multiplyTo (productSigned (s.reg x) (s.reg y)) s

/-- `muls rx, bbb`; spec/41_alu_integer.md R185. -/
def execMulsRI (x : RegNum) (b : BitVec 4) (s : State) : Result :=
  multiplyTo (productSigned (s.reg x) (s.aluImm b)) s

/-- `div rx, ry`; spec/41_alu_integer.md R186. -/
def execDivRR (x y : RegNum) (s : State) : Result :=
  unprefixed s fun s => divWith x (s.reg y) s

/-- `div rx, bbb`; spec/41_alu_integer.md R187. -/
def execDivRI (x : RegNum) (b : BitVec 4) (s : State) : Result :=
  divWith x (s.aluImm b) s

/-- `divs rx, ry`; spec/41_alu_integer.md R188. -/
def execDivsRR (x y : RegNum) (s : State) : Result :=
  unprefixed s fun s => divsWith x (s.reg y) s

/-- `divs rx, bbb`; spec/41_alu_integer.md R189. -/
def execDivsRI (x : RegNum) (b : BitVec 4) (s : State) : Result :=
  divsWith x (s.aluImm b) s

end Sys2Proof.Machine
end

