-- ==== Sys2Proof/Machine/Shift.lean ====
section
/-! DEFINITION. Class ALU, unit IP: the ten single-bit shifts and rotates (spec/41_alu_integer.md R166 to R175, R193). -/

namespace Sys2Proof.Machine

/-- A shift left by one with the bit that enters at bit 0; spec/41_alu_integer.md R193. -/
def shiftLeftWith (x : RegNum) (low : Bool) (s : State) : Result :=
  let r := shiftLeft (s.reg x) low
  complete (s.putResult x r.1 r.2)

/-- A shift right by one with the bit that enters at bit 15; spec/41_alu_integer.md R193. -/
def shiftRightWith (x : RegNum) (high : Bool) (s : State) : Result :=
  let r := shiftRight (s.reg x) high
  complete (s.putResult x r.1 r.2)

/-- `sla rx`; spec/41_alu_integer.md R166. -/
def execSla (x : RegNum) (s : State) : Result :=
  unprefixed s fun s => shiftLeftWith x s.msr.c s

/-- `slx rx`; spec/41_alu_integer.md R167. -/
def execSlx (x : RegNum) (s : State) : Result :=
  unprefixed s fun s => shiftLeftWith x ((s.reg x).getLsbD 0) s

/-- `sl0 rx`; spec/41_alu_integer.md R168. -/
def execSl0 (x : RegNum) (s : State) : Result :=
  unprefixed s fun s => shiftLeftWith x false s

/-- `sl1 rx`; spec/41_alu_integer.md R169. -/
def execSl1 (x : RegNum) (s : State) : Result :=
  unprefixed s fun s => shiftLeftWith x true s

/-- `rl rx`; spec/41_alu_integer.md R170. -/
def execRl (x : RegNum) (s : State) : Result :=
  unprefixed s fun s => shiftLeftWith x (if s.cfg.rotateThroughCarry then s.msr.c else (s.reg x).getLsbD 15) s

/-- `sra rx`; spec/41_alu_integer.md R171. -/
def execSra (x : RegNum) (s : State) : Result :=
  unprefixed s fun s => shiftRightWith x s.msr.c s

/-- `srx rx`; spec/41_alu_integer.md R172. -/
def execSrx (x : RegNum) (s : State) : Result :=
  unprefixed s fun s => shiftRightWith x ((s.reg x).getLsbD 15) s

/-- `sr0 rx`; spec/41_alu_integer.md R173. -/
def execSr0 (x : RegNum) (s : State) : Result :=
  unprefixed s fun s => shiftRightWith x false s

/-- `sr1 rx`; spec/41_alu_integer.md R174. -/
def execSr1 (x : RegNum) (s : State) : Result :=
  unprefixed s fun s => shiftRightWith x true s

/-- `rr rx`; spec/41_alu_integer.md R175. -/
def execRr (x : RegNum) (s : State) : Result :=
  unprefixed s fun s => shiftRightWith x (if s.cfg.rotateThroughCarry then s.msr.c else (s.reg x).getLsbD 0) s

end Sys2Proof.Machine
end

