-- ==== Sys2Proof/Machine/SprMmu.lean ====
section
/-! DEFINITION. Class IO: special purpose register moves, index register steps, MMU loads (spec/46_io_spr_mmu.md). -/

namespace Sys2Proof.Machine

/-- An SPR move names a register user mode may name or runs in kernel mode, and names an FP register only where there
is an FPU; spec/46_io_spr_mmu.md R281, R283, R284. -/
def sprMove (r : Spr) (s : State) (k : State → Result) : Result :=
  if s.msr.um && r.kernelOnly then .refused .privileged
  else if r.isFp && !s.cfg.hasFpu then .refused .fpRegisterAbsent
  else k s

/-- `ldspr rx:rx+1, SPRy`; spec/46_io_spr_mmu.md R283. -/
def execLdspr (x : BitVec 3) (y : BitVec 4) (s : State) : Result :=
  unprefixed s fun s => sprMove (sprOf y) s fun s => complete (s.setPair x (s.readSpr (sprOf y)))

/-- `stspr rx:rx+1, SPRy`; spec/46_io_spr_mmu.md R284. -/
def execStspr (x : BitVec 3) (y : BitVec 4) (s : State) : Result :=
  unprefixed s fun s => sprMove (sprOf y) s fun s => complete (s.writeSpr (sprOf y) (s.pair x))

/-- `incpr IDy`; spec/46_io_spr_mmu.md R285. -/
def execIncpr (y : BitVec 2) (s : State) : Result :=
  unprefixed s fun s => complete (s.setIndex y (s.index y + 1#32))

/-- `wincpr IDy`; spec/46_io_spr_mmu.md R286. -/
def execWincpr (y : BitVec 2) (s : State) : Result :=
  unprefixed s fun s => complete (s.setIndex y (s.index y + 2#32))

/-- `decpr IDy`; spec/46_io_spr_mmu.md R287. -/
def execDecpr (y : BitVec 2) (s : State) : Result :=
  unprefixed s fun s => complete (s.setIndex y (s.index y - 1#32))

/-- `wdecpr IDy`; spec/46_io_spr_mmu.md R288. -/
def execWdecpr (y : BitVec 2) (s : State) : Result :=
  unprefixed s fun s => complete (s.setIndex y (s.index y - 2#32))

/-- `ldpid rx`; spec/46_io_spr_mmu.md R289. -/
def execLdpid (x : RegNum) (s : State) : Result :=
  needsUnit s.cfg.hasMmu s fun s => unprefixed s fun s => kernelOnly s fun s =>
    complete (s.setPid ((s.reg x).extractLsb' 0 6))

/-- `ldtlb rx:rx+1, d`; spec/46_io_spr_mmu.md R290. -/
def execLdtlb (x : BitVec 3) (d : BitVec 5) (s : State) : Result :=
  needsUnit s.cfg.hasMmu s fun s => unprefixed s fun s => kernelOnly s fun s =>
    complete (s.setTlb d (s.pair x))

end Sys2Proof.Machine
end

