-- ==== Sys2Proof/Machine/Dispatch.lean ====
section
/-! DEFINITION. The meaning of each instruction: one arm per constructor of `Instr`, each one call. -/

namespace Sys2Proof.Machine

def exec (i : Instr) (s : State) : Host.Outcome State Fault Refusal :=
  match i with
  | .imm a => Sys2Proof.Machine.execImm a s
  | .addRR x y => Sys2Proof.Machine.execAddRR x y s
  | .addRI x b => Sys2Proof.Machine.execAddRI x b s
  | .adcRR x y => Sys2Proof.Machine.execAdcRR x y s
  | .adcRI x b => Sys2Proof.Machine.execAdcRI x b s
  | .subRR x y => Sys2Proof.Machine.execSubRR x y s
  | .subRI x b => Sys2Proof.Machine.execSubRI x b s
  | .sbbRR x y => Sys2Proof.Machine.execSbbRR x y s
  | .sbbRI x b => Sys2Proof.Machine.execSbbRI x b s
  | .andRR x y => Sys2Proof.Machine.execAndRR x y s
  | .andRI x b => Sys2Proof.Machine.execAndRI x b s
  | .orRR x y => Sys2Proof.Machine.execOrRR x y s
  | .orRI x b => Sys2Proof.Machine.execOrRI x b s
  | .xorRR x y => Sys2Proof.Machine.execXorRR x y s
  | .xorRI x b => Sys2Proof.Machine.execXorRI x b s
  | .sla x => Sys2Proof.Machine.execSla x s
  | .slx x => Sys2Proof.Machine.execSlx x s
  | .sl0 x => Sys2Proof.Machine.execSl0 x s
  | .sl1 x => Sys2Proof.Machine.execSl1 x s
  | .rl x => Sys2Proof.Machine.execRl x s
  | .sra x => Sys2Proof.Machine.execSra x s
  | .srx x => Sys2Proof.Machine.execSrx x s
  | .sr0 x => Sys2Proof.Machine.execSr0 x s
  | .sr1 x => Sys2Proof.Machine.execSr1 x s
  | .rr x => Sys2Proof.Machine.execRr x s
  | .cmpRR x y => Sys2Proof.Machine.execCmpRR x y s
  | .cmpRI x b => Sys2Proof.Machine.execCmpRI x b s
  | .testRR x y => Sys2Proof.Machine.execTestRR x y s
  | .testRI x b => Sys2Proof.Machine.execTestRI x b s
  | .loadRR x y => Sys2Proof.Machine.execLoadRR x y s
  | .loadRI x b => Sys2Proof.Machine.execLoadRI x b s
  | .mulRR x y => Sys2Proof.Machine.execMulRR x y s
  | .mulRI x b => Sys2Proof.Machine.execMulRI x b s
  | .mulsRR x y => Sys2Proof.Machine.execMulsRR x y s
  | .mulsRI x b => Sys2Proof.Machine.execMulsRI x b s
  | .divRR x y => Sys2Proof.Machine.execDivRR x y s
  | .divRI x b => Sys2Proof.Machine.execDivRI x b s
  | .divsRR x y => Sys2Proof.Machine.execDivsRR x y s
  | .divsRI x b => Sys2Proof.Machine.execDivsRI x b s
  | .bsl x b => Sys2Proof.Machine.execBsl x b s
  | .bsr x b => Sys2Proof.Machine.execBsr x b s
  | .fmul u v => Sys2Proof.Machine.execFmul u v s
  | .fdiv u v => Sys2Proof.Machine.execFdiv u v s
  | .fadd u v => Sys2Proof.Machine.execFadd u v s
  | .fsub u v => Sys2Proof.Machine.execFsub u v s
  | .fcmp u v => Sys2Proof.Machine.execFcmp u v s
  | .fint u => Sys2Proof.Machine.execFint u s
  | .fflt u => Sys2Proof.Machine.execFflt u s
  | .jump c => Sys2Proof.Machine.execJump c s
  | .jumpNz c => Sys2Proof.Machine.execJumpNz c s
  | .jumpZ c => Sys2Proof.Machine.execJumpZ c s
  | .jumpNc c => Sys2Proof.Machine.execJumpNc c s
  | .jumpC c => Sys2Proof.Machine.execJumpC c s
  | .jumpRel c => Sys2Proof.Machine.execJumpRel c s
  | .jumpRelNz c => Sys2Proof.Machine.execJumpRelNz c s
  | .jumpRelZ c => Sys2Proof.Machine.execJumpRelZ c s
  | .jumpRelNc c => Sys2Proof.Machine.execJumpRelNc c s
  | .jumpRelC c => Sys2Proof.Machine.execJumpRelC c s
  | .call c => Sys2Proof.Machine.execCall c s
  | .callNz c => Sys2Proof.Machine.execCallNz c s
  | .callZ c => Sys2Proof.Machine.execCallZ c s
  | .callNc c => Sys2Proof.Machine.execCallNc c s
  | .callC c => Sys2Proof.Machine.execCallC c s
  | .callRel c => Sys2Proof.Machine.execCallRel c s
  | .callRelNz c => Sys2Proof.Machine.execCallRelNz c s
  | .callRelZ c => Sys2Proof.Machine.execCallRelZ c s
  | .callRelNc c => Sys2Proof.Machine.execCallRelNc c s
  | .callRelC c => Sys2Proof.Machine.execCallRelC c s
  | .svc => Sys2Proof.Machine.execSvc s
  | .ret => Sys2Proof.Machine.execRet s
  | .reti => Sys2Proof.Machine.execReti s
  | .rete => Sys2Proof.Machine.execRete s
  | .ldwAbs x c => Sys2Proof.Machine.execLdwAbs x c s
  | .ldwIdx x y b => Sys2Proof.Machine.execLdwIdx x y b s
  | .ldspr x y => Sys2Proof.Machine.execLdspr x y s
  | .incpr y => Sys2Proof.Machine.execIncpr y s
  | .wincpr y => Sys2Proof.Machine.execWincpr y s
  | .decpr y => Sys2Proof.Machine.execDecpr y s
  | .wdecpr y => Sys2Proof.Machine.execWdecpr y s
  | .ldpid x => Sys2Proof.Machine.execLdpid x s
  | .ldtlb x d => Sys2Proof.Machine.execLdtlb x d s
  | .stwAbs x c => Sys2Proof.Machine.execStwAbs x c s
  | .stwIdx x y b => Sys2Proof.Machine.execStwIdx x y b s
  | .stspr x y => Sys2Proof.Machine.execStspr x y s
  | .ldbAbs x e => Sys2Proof.Machine.execLdbAbs x e s
  | .ldbIdx x y b => Sys2Proof.Machine.execLdbIdx x y b s
  | .stbAbs x e => Sys2Proof.Machine.execStbAbs x e s
  | .stbIdx x y b => Sys2Proof.Machine.execStbIdx x y b s

end Sys2Proof.Machine
end

