-- ==== Sys2Proof/Machine/Cycle.lean ====
section
/-! DEFINITION. One step of the machine (spec/60_exceptions.md R300), and the bytes of an instruction in memory. -/

namespace Sys2Proof.Machine

/-- Decoding and executing a fetched word: a word that matches no row raises IllegalOpcode; spec/60_exceptions.md R300
steps 4 to 8. The rows of absent units raise it in their meanings, before anything else. -/
def runWord (w : Word) (s : State) : Result :=
  match decodeWord w with
  | .ok i => exec i s
  | .error _ => raise .illegalOpcode s

/-- Fetching and running the instruction at `pc`; spec/60_exceptions.md R300 steps 3 to 8. -/
def runNext (s : State) : Result :=
  match s.fetch with
  | .ok (w, s) => runWord w s
  | .error r => .refused r

/-- One step: the MMU check, the interrupt check, else the next instruction; spec/60_exceptions.md R300. The boundary's
`irq` value is used up whatever happens (R310). -/
def cycle (s : State) : Result :=
  if s.pc.getLsbD 0 then .fault .pcOdd
  else if s.msr.vm then .refused .virtualMode
  else if s.interruptDue then .next s.popIrq.enterInterrupt
  else runNext s.popIrq

/-- An instruction word put where the next fetch reads it, in the build's byte order, as part of the memory image the
platform supplies: its bytes do not count as stored by the program (log 20). -/
def State.placeWord (s : State) (w : Word) : State :=
  { s with
    mem := (s.mem.write s.pc.toNat (firstByte s.cfg.endian w)).write (s.pc + 1#24).toNat (secondByte s.cfg.endian w)
    stored := s.stored.filter (fun a => a != s.pc.toNat && a != (s.pc + 1#24).toNat) }

end Sys2Proof.Machine
end

