-- ==== Sys2Proof/Safety.lean ====
section
/-! DEFINITION. The words the statements are made in: the invariant of the machine's states, what an instruction
leaves as it was, and how an instruction ends. -/

namespace Sys2Proof.Machine

/-- What the spec says of every state of the machine: `pc` is even (spec/10_state.md R25), the exception code is one of
the four that are not reserved (R33), memory and the marks of stores are in their canonical forms. -/
structure State.Inv (s : State) : Prop where
  pcEven : s.pc.getLsbD 0 = false
  codeLegal : s.msr.ec.toNat ≤ 3
  memoryCanonical : s.mem.wf = true
  marksRising : s.stored.Pairwise (· < ·)
  marksInMemory : ∀ a ∈ s.stored, a < 2 ^ 24

/-- A run that does not stop with a fault of the model. -/
def Safe (r : Result) : Prop := ∀ f, r ≠ .fault f

/-- The word decodes to the instruction, and the instruction encodes as the word. -/
def Encodes (w : Word) (i : Instr) : Prop := decodeWord w = .ok i ∧ encode i = w

/-- No pending prefix keeps an instruction that takes none from executing; spec/30_encoding.md R112. -/
abbrev State.prefixFree (s : State) : Prop := s.immv = false ∨ s.cfg.immUndocumented = .ignore

/-- An exception can be entered; spec/60_exceptions.md R306, R307. -/
abbrev State.canTrap (s : State) : Prop := s.msr.e = true ∧ s.msr.eip = false

/-! ### What stays as it was -/

/-- Every byte of memory reads as before, and no byte is marked as stored to. -/
def KeepsMemory (s t : State) : Prop := (∀ a, t.byteAt a = s.byteAt a) ∧ t.stored = s.stored

/-- `r0` to `rf`. -/
def KeepsRegs (s t : State) : Prop := ∀ r, t.reg r = s.reg r

/-- `r0` to `rf` but `x`. -/
def KeepsRegsBut (x : RegNum) (s t : State) : Prop := ∀ r, r ≠ x → t.reg r = s.reg r

/-- `LR`. -/
def KeepsLr (s t : State) : Prop := t.lr = s.lr

/-- `ILR`, `ELR` and `EAR`, the registers a trap saves into. -/
def KeepsTrapRegs (s t : State) : Prop := t.ilr = s.ilr ∧ t.elr = s.elr ∧ t.ear = s.ear

/-- `CC`, `VBAR` and `CTX`. -/
def KeepsControlRegs (s t : State) : Prop := t.cc = s.cc ∧ t.vbar = s.vbar ∧ t.ctx = s.ctx

/-- `ID0` to `ID3`. -/
def KeepsIndex (s t : State) : Prop := ∀ y, t.index y = s.index y

/-- `FP0` to `FP3`. -/
def KeepsFp (s t : State) : Prop := ∀ u, t.fpr u = s.fpr u

/-- The PID register and the TLB. -/
def KeepsMmu (s t : State) : Prop := t.pid = s.pid ∧ ∀ d, t.tlbEntry d = s.tlbEntry d

/-- `Z` and `C`. -/
def KeepsFlags (s t : State) : Prop := t.msr.z = s.msr.z ∧ t.msr.c = s.msr.c

/-- Every field of the MSR but `Z` and `C`. -/
def KeepsStatus (s t : State) : Prop :=
  t.msr.i = s.msr.i ∧ t.msr.e = s.msr.e ∧ t.msr.vm = s.msr.vm ∧ t.msr.um = s.msr.um ∧ t.msr.vms = s.msr.vms ∧
    t.msr.ums = s.msr.ums ∧ t.msr.ec = s.msr.ec ∧ t.msr.eip = s.msr.eip

/-- The build, what the platform will supply, and the accesses made to devices. -/
def KeepsOutside (s t : State) : Prop := t.cfg = s.cfg ∧ t.irq = s.irq ∧ t.deviceLog = s.deviceLog

/-- Every special purpose register but the MSR, the index and the FP registers. -/
def KeepsNamedSprs (s t : State) : Prop := KeepsLr s t ∧ KeepsTrapRegs s t ∧ KeepsControlRegs s t

/-- Everything but the user registers, memory and the flags. -/
def KeepsSystem (s t : State) : Prop :=
  KeepsNamedSprs s t ∧ KeepsIndex s t ∧ KeepsFp s t ∧ KeepsMmu s t ∧ KeepsStatus s t ∧ KeepsOutside s t

/-! ### How an instruction ends -/

/-- The instruction ends at the next one with the latch consumed; spec/60_exceptions.md R300. -/
def Advances (s t : State) : Prop := t.pc = s.pc + 2#24 ∧ t.immv = false

/-- `rx` and the flags get these values, and nothing else changes but `pc` and the latch. -/
def WritesReg (x : RegNum) (v : Word) (z c : Bool) (s t : State) : Prop :=
  t.reg x = v ∧ t.msr.z = z ∧ t.msr.c = c ∧ KeepsRegsBut x s t ∧ KeepsMemory s t ∧ KeepsSystem s t ∧ Advances s t

/-- The flags get these values, and nothing else changes but `pc` and the latch. -/
def WritesFlags (z c : Bool) (s t : State) : Prop :=
  t.msr.z = z ∧ t.msr.c = c ∧ KeepsRegs s t ∧ KeepsMemory s t ∧ KeepsSystem s t ∧ Advances s t

/-- `rx` gets this value, and nothing else changes but `pc` and the latch. -/
def LoadsReg (x : RegNum) (v : Word) (s t : State) : Prop :=
  t.reg x = v ∧ KeepsRegsBut x s t ∧ KeepsFlags s t ∧ KeepsMemory s t ∧ KeepsSystem s t ∧ Advances s t

/-- The product's halves go to `re` and `rf`, the flags are left open, and nothing else changes. -/
def WritesProduct (high low : Word) (s t : State) : Prop :=
  t.reg (if s.cfg.pairHighFirst then 14#4 else 15#4) = high ∧ t.reg (if s.cfg.pairHighFirst then 15#4 else 14#4) = low ∧
    (∀ r, r ≠ 14#4 → r ≠ 15#4 → t.reg r = s.reg r) ∧ KeepsMemory s t ∧ KeepsSystem s t ∧ Advances s t

/-- `rx` is written, by this value where one is given, the flags are left open, and nothing else changes. -/
def WritesQuotient (x : RegNum) (v : Option Word) (s t : State) : Prop :=
  (∀ q, v = some q → t.reg x = q) ∧ KeepsRegsBut x s t ∧ KeepsMemory s t ∧ KeepsSystem s t ∧ Advances s t

/-- `FPu` gets this value, and nothing else changes but the flags, which are left open. -/
def WritesFp (u : BitVec 2) (v : Long) (s t : State) : Prop :=
  t.fpr u = v ∧ (∀ w, w ≠ u → t.fpr w = s.fpr w) ∧ KeepsRegs s t ∧ KeepsMemory s t ∧ KeepsNamedSprs s t ∧
    KeepsIndex s t ∧ KeepsMmu s t ∧ KeepsStatus s t ∧ KeepsOutside s t ∧ Advances s t

/-- Control goes to this address, the latch is consumed, and nothing else changes. -/
def GoesTo (target : Addr) (s t : State) : Prop :=
  t.pc = target ∧ t.immv = false ∧ KeepsRegs s t ∧ KeepsFlags s t ∧ KeepsMemory s t ∧ KeepsSystem s t

/-- Control goes to this address, `LR` gets this value, the latch is consumed, and nothing else changes. -/
def CallsTo (target : Addr) (link : Long) (s t : State) : Prop :=
  t.pc = target ∧ t.lr = link ∧ t.immv = false ∧ KeepsRegs s t ∧ KeepsFlags s t ∧ KeepsMemory s t ∧ KeepsTrapRegs s t ∧
    KeepsControlRegs s t ∧ KeepsIndex s t ∧ KeepsFp s t ∧ KeepsMmu s t ∧ KeepsStatus s t ∧ KeepsOutside s t

/-- Everything but memory, `pc` and the latch is as before: what a store leaves. -/
def StoresOnly (s t : State) : Prop :=
  KeepsRegs s t ∧ KeepsFlags s t ∧ KeepsSystem s t ∧ Advances s t

/-- `IDy` gets this value, and nothing else changes but `pc` and the latch. -/
def WritesIndex (y : BitVec 2) (v : Long) (s t : State) : Prop :=
  t.index y = v ∧ (∀ w, w ≠ y → t.index w = s.index w) ∧ KeepsRegs s t ∧ KeepsFlags s t ∧ KeepsMemory s t ∧
    KeepsNamedSprs s t ∧ KeepsFp s t ∧ KeepsMmu s t ∧ KeepsStatus s t ∧ KeepsOutside s t ∧ Advances s t

/-- What an entry through the vector at `offset` leaves alone: the user registers, the flags, memory, `LR`, `CC`,
`VBAR`, `CTX`, the index and FP registers, the MMU's registers; and what it does to the modes and `pc`. -/
def EntersKernelAt (offset : Addr) (s t : State) : Prop :=
  t.pc = (s.vbar ++ 0#1 : BitVec 24) + offset ∧ t.immv = false ∧ t.msr.vms = s.msr.vm ∧ t.msr.ums = s.msr.um ∧
    t.msr.vm = false ∧ t.msr.um = false ∧ t.msr.e = s.msr.e ∧ KeepsRegs s t ∧ KeepsFlags s t ∧ KeepsMemory s t ∧
    KeepsLr s t ∧ KeepsControlRegs s t ∧ KeepsIndex s t ∧ KeepsFp s t ∧ KeepsMmu s t ∧ t.cfg = s.cfg

/-- The entry of an exception with this code and this value of `EAR`; spec/60_exceptions.md R305. -/
def EntersException (code : BitVec 4) (ear : Long) (s t : State) : Prop :=
  EntersKernelAt 8#24 s t ∧ t.msr.ec = code ∧ t.msr.eip = true ∧ t.msr.i = s.msr.i ∧ t.ear = ear ∧ t.ilr = s.ilr ∧
    t.elr = (if s.cfg.trapLink = .next then s.pc + 2#24 else s.pc).setWidth 32 ∧ t.irq = s.irq ∧
    t.deviceLog = s.deviceLog

/-- The immediate of an ALU instruction as a number; spec/30_encoding.md R110. -/
def State.immediate (s : State) (b : BitVec 4) : Nat :=
  if s.immv then 16 * (s.imma.toNat % 2 ^ 12) + b.toNat else b.toNat

/-- The absolute word address as a number; spec/30_encoding.md R111. -/
def State.wordTarget (s : State) (c : BitVec 9) : Nat :=
  if s.immv then 1024 * s.imma.toNat + 2 * c.toNat else 2 * c.toNat

/-- The absolute byte address as a number; spec/30_encoding.md R111. -/
def State.byteTarget (s : State) (e : BitVec 10) : Nat :=
  if s.immv then 1024 * s.imma.toNat + e.toNat else e.toNat

/-- The platform has memory there for an access of this kind; spec/20_memory.md R80. -/
abbrev State.isMemory (s : State) (k : AccessKind) (a : Addr) : Prop := s.regionKind k a = some .memory

/-- The suffixes of the conditional forms as the flags they test; spec/44_flow_control.md R220. -/
def State.suffixHolds (s : State) (k : Cond) : Prop :=
  match k with
  | .always => True
  | .nz => s.msr.z = false
  | .z => s.msr.z = true
  | .nc => s.msr.c = false
  | .c => s.msr.c = true

/-- A subtraction of exact difference `d` into `rx`, `C` its borrow; spec/41_alu_integer.md R156. -/
def SubtractsTo (x : RegNum) (d : Int) (s t : State) : Prop :=
  WritesReg x (BitVec.ofInt 16 d) (decide (d % 2 ^ 16 = 0)) (decide (d < 0)) s t

/-- The same with `C = 1` for no borrow, `SUB_CARRY_IS_BORROW = false`; spec/41_alu_integer.md R191. -/
def SubtractsInverted (x : RegNum) (d : Int) (s t : State) : Prop :=
  WritesReg x (BitVec.ofInt 16 d) (decide (d % 2 ^ 16 = 0)) (decide (0 ≤ d)) s t

/-- A sum of exact value `n` into `rx`; spec/41_alu_integer.md R152. -/
def AddsTo (x : RegNum) (n : Nat) (s t : State) : Prop :=
  WritesReg x (BitVec.ofNat 16 n) (decide (n % 2 ^ 16 = 0)) (decide (2 ^ 16 ≤ n)) s t

/-- A bitwise result into `rx`, with this carry; spec/41_alu_integer.md R160, R192. -/
def LogicTo (x : RegNum) (v : Word) (c : Bool) (s t : State) : Prop := WritesReg x v (decide (v = 0#16)) c s t

/-- `rx` moved one place left, this bit entering at bit 0; spec/41_alu_integer.md R166 to R170. -/
def ShiftsLeft (x : RegNum) (low : Bool) (s t : State) : Prop :=
  WritesReg x (BitVec.ofNat 16 (2 * (s.reg x).toNat + low.toNat)) (decide ((2 * (s.reg x).toNat + low.toNat) % 2 ^ 16 = 0))
    (decide (2 ^ 15 ≤ (s.reg x).toNat)) s t

/-- `rx` moved one place right, this bit entering at bit 15; spec/41_alu_integer.md R171 to R175. -/
def ShiftsRight (x : RegNum) (high : Bool) (s t : State) : Prop :=
  WritesReg x (BitVec.ofNat 16 ((s.reg x).toNat / 2 + 2 ^ 15 * high.toNat))
    (decide ((s.reg x).toNat / 2 + 2 ^ 15 * high.toNat = 0)) (decide ((s.reg x).toNat % 2 = 1)) s t

/-- `re:rf` as a number; spec/00_scope.md R12. -/
def State.dividend (s : State) : Nat :=
  if s.cfg.pairHighFirst then 2 ^ 16 * (s.reg 14#4).toNat + (s.reg 15#4).toNat
  else 2 ^ 16 * (s.reg 15#4).toNat + (s.reg 14#4).toNat

/-- `re:rf` as a signed number; spec/41_alu_integer.md R188. -/
def State.signedDividend (s : State) : Int :=
  if s.dividend < 2 ^ 31 then s.dividend else (s.dividend : Int) - 2 ^ 32

/-- The unsigned quotient where it fits; spec/41_alu_integer.md R186. -/
def fittingQuotient (n : Nat) : Option Word := if n < 2 ^ 16 then some (BitVec.ofNat 16 n) else none

/-- The signed quotient where it fits; spec/41_alu_integer.md R188. -/
def fittingSignedQuotient (n : Int) : Option Word :=
  if -32768 ≤ n ∧ n < 32768 then some (BitVec.ofInt 16 n) else none

/-- A jump form: where it goes when its suffix holds and when it does not; spec/44_flow_control.md R223. -/
def JumpsBy (k : Cond) (target : Addr) (s t : State) : Prop :=
  (s.suffixHolds k → GoesTo target s t) ∧ (¬ s.suffixHolds k → GoesTo (s.pc + 2#24) s t)

/-- A call form: it links only when it is taken; spec/44_flow_control.md R223. -/
def CallsBy (k : Cond) (target : Addr) (s t : State) : Prop :=
  (s.suffixHolds k → CallsTo target ((s.pc + 2#24).setWidth 32) s t) ∧ (¬ s.suffixHolds k → GoesTo (s.pc + 2#24) s t)

/-- The base of a relative target; spec/44_flow_control.md R222. -/
def State.countedFrom (s : State) : Addr := if s.cfg.relBase = .self then s.pc else s.pc + 2#24

/-- The relative target with counts of two bytes; spec/44_flow_control.md R222. -/
def State.wordsAway (s : State) (c : BitVec 9) : Addr := s.countedFrom + BitVec.ofInt 24 (2 * c.toInt)

/-- The relative target with counts of one byte, bit 0 cleared (log 18). -/
def State.bytesAway (s : State) (c : BitVec 9) : Addr :=
  BitVec.ofNat 24 (2 * ((s.countedFrom + BitVec.ofInt 24 c.toInt).toNat / 2))

/-- The settings of spec/00_scope.md R5 a relative target is stated under. -/
abbrev State.countsWords (s : State) : Prop := s.cfg.relUnit = .two ∧ s.cfg.relBase = .self

/-! ### The forms of an instruction: its words, and what it does -/

/-- The word of two 4-bit fields over a base, `base | x<<4 | b`. -/
def operandWord (base : Word) (x b : BitVec 4) : Word := base ||| (x.setWidth 16 <<< 4) ||| b.setWidth 16

/-- The two-register form: its words, and its effect with `ry` as the second operand in every state in which `runs`
holds of that operand; spec/41_alu_integer.md R150. -/
def RegisterForm (base : Word) (form : RegNum → RegNum → Instr) (runs : Word → State → Prop)
    (effect : RegNum → Word → State → State → Prop) : Prop :=
  ∀ x y, Encodes (operandWord base x y) (form x y) ∧
    ∀ s, s.prefixFree → runs (s.reg y) s → ∃ t, exec (form x y) s = .next t ∧ effect x (s.reg y) s t

/-- The immediate form, in the same way; spec/41_alu_integer.md R150, spec/30_encoding.md R110. -/
def ImmediateForm (base : Word) (form : RegNum → BitVec 4 → Instr) (runs : Word → State → Prop)
    (effect : RegNum → Word → State → State → Prop) : Prop :=
  ∀ x b, Encodes (operandWord base x b) (form x b) ∧
    ∀ s, runs (BitVec.ofNat 16 (s.immediate b)) s →
      ∃ t, exec (form x b) s = .next t ∧ effect x (BitVec.ofNat 16 (s.immediate b)) s t

/-- The one-register form, `base | x<<4`. -/
def OneRegisterForm (base : Word) (form : RegNum → Instr) (runs : State → Prop)
    (effect : RegNum → State → State → Prop) : Prop :=
  ∀ x, Encodes (operandWord base x 0#4) (form x) ∧
    ∀ s, s.prefixFree → runs s → ∃ t, exec (form x) s = .next t ∧ effect x s t

/-- The word of two 2-bit fields over a base, `base | u<<2 | v`. -/
def floatWord (base : Word) (u v : BitVec 2) : Word := base ||| (u.setWidth 16 <<< 2) ||| v.setWidth 16

/-- The two-register form of the FPU, `base | u<<2 | v`: its words, its effect, and the exception of a build without
the unit; spec/43_alu_float.md R205, R207. -/
def FloatForm (base : Word) (form : BitVec 2 → BitVec 2 → Instr) (effect : BitVec 2 → Long → State → State → Prop) : Prop :=
  ∀ u v, Encodes (floatWord base u v) (form u v) ∧
    (∀ s, s.cfg.hasFpu = true → s.prefixFree → ∃ t, exec (form u v) s = .next t ∧ effect u (s.fpr v) s t) ∧
    ∀ s, s.cfg.hasFpu = false → s.cfg.unitAbsent = .illegal → s.canTrap →
      ∃ t, exec (form u v) s = .next t ∧ EntersException 3#4 s.ear s t

/-- The one-register form of the FPU, `base | u<<2`. -/
def OneFloatForm (base : Word) (form : BitVec 2 → Instr) (effect : BitVec 2 → State → State → Prop) : Prop :=
  ∀ u, Encodes (floatWord base u 0#2) (form u) ∧
    (∀ s, s.cfg.hasFpu = true → s.prefixFree → ∃ t, exec (form u) s = .next t ∧ effect u s t) ∧
    ∀ s, s.cfg.hasFpu = false → s.cfg.unitAbsent = .illegal → s.canTrap →
      ∃ t, exec (form u) s = .next t ∧ EntersException 3#4 s.ear s t

/-- Every absolute jump of this suffix, `base | c`; spec/44_flow_control.md R221, R224 to R228. -/
def AbsoluteJump (base : Word) (form : BitVec 9 → Instr) (k : Cond) : Prop :=
  ∀ c, Encodes (base ||| c.setWidth 16) (form c) ∧
    ∀ s, ∃ t, exec (form c) s = .next t ∧ JumpsBy k (BitVec.ofNat 24 (s.wordTarget c)) s t

/-- Every relative jump of this suffix, `base | c`, under the settings given; spec/44_flow_control.md R222, R229 to
R233. -/
def RelativeJump (runs : State → Prop) (target : State → BitVec 9 → Addr) (base : Word) (form : BitVec 9 → Instr)
    (k : Cond) : Prop :=
  ∀ c, Encodes (base ||| c.setWidth 16) (form c) ∧
    ∀ s, s.prefixFree → runs s → ∃ t, exec (form c) s = .next t ∧ JumpsBy k (target s c) s t

/-- Every absolute call of this suffix, `base | c`; spec/44_flow_control.md R221, R234 to R238. -/
def AbsoluteCall (base : Word) (form : BitVec 9 → Instr) (k : Cond) : Prop :=
  ∀ c, Encodes (base ||| c.setWidth 16) (form c) ∧
    ∀ s, ∃ t, exec (form c) s = .next t ∧ CallsBy k (BitVec.ofNat 24 (s.wordTarget c)) s t

/-- Every relative call of this suffix, `base | c`, under the settings given; spec/44_flow_control.md R222, R239 to
R243. -/
def RelativeCall (runs : State → Prop) (target : State → BitVec 9 → Addr) (base : Word) (form : BitVec 9 → Instr)
    (k : Cond) : Prop :=
  ∀ c, Encodes (base ||| c.setWidth 16) (form c) ∧
    ∀ s, s.prefixFree → runs s → ∃ t, exec (form c) s = .next t ∧ CallsBy k (target s c) s t

/-- Every relative jump and call under the settings given. -/
def RelativeForms (runs : State → Prop) (target : State → BitVec 9 → Addr) : Prop :=
  RelativeJump runs target 0x8600#16 .jumpRel .always ∧ RelativeJump runs target 0x8200#16 .jumpRelNz .nz ∧
    RelativeJump runs target 0x9200#16 .jumpRelZ .z ∧ RelativeJump runs target 0x8A00#16 .jumpRelNc .nc ∧
    RelativeJump runs target 0x9A00#16 .jumpRelC .c ∧ RelativeCall runs target 0xA600#16 .callRel .always ∧
    RelativeCall runs target 0xA200#16 .callRelNz .nz ∧ RelativeCall runs target 0xB200#16 .callRelZ .z ∧
    RelativeCall runs target 0xAA00#16 .callRelNc .nc ∧ RelativeCall runs target 0xBA00#16 .callRelC .c

/-- The index register steps, `base | y`; spec/46_io_spr_mmu.md R285 to R288. -/
def IndexStep (base : Word) (form : BitVec 2 → Instr) (step : Int) : Prop :=
  ∀ y, Encodes (base ||| y.setWidth 16) (form y) ∧
    ∀ s, s.prefixFree →
      ∃ t, exec (form y) s = .next t ∧ WritesIndex y (BitVec.ofInt 32 ((s.index y).toNat + step)) s t

/-- The absolute word forms, `base | x<<9 | c` with `r0` or `r1`; spec/30_encoding.md R105. -/
def wordFormWord (base : Word) (x : RegNum) (c : BitVec 9) : Word := base ||| (x.setWidth 16 <<< 9) ||| c.setWidth 16

/-- The absolute byte forms, `base | x<<10 | e`. -/
def byteFormWord (base : Word) (x : RegNum) (e : BitVec 10) : Word := base ||| (x.setWidth 16 <<< 10) ||| e.setWidth 16

/-- The indexed forms, `base | x<<6 | y<<4 | b`. -/
def indexedFormWord (base : Word) (x : RegNum) (y : BitVec 2) (b : BitVec 4) : Word :=
  base ||| (x.setWidth 16 <<< 6) ||| (y.setWidth 16 <<< 4) ||| b.setWidth 16

/-- `MemRead(a, 2)`; spec/20_memory.md R72. -/
def State.wordFrom (s : State) (a : Addr) : Word :=
  if s.cfg.endian = .big then s.byteAt a ++ s.byteAt (a + 1#24) else s.byteAt (a + 1#24) ++ s.byteAt a

/-- After a 16-bit store of `v` at `ea`: its two bytes in the build's order, every other byte as before, both marked;
spec/20_memory.md R72. -/
def HoldsWord (ea : Addr) (v : Word) (s t : State) : Prop :=
  t.byteAt ea = (if s.cfg.endian = .big then v.extractLsb' 8 8 else v.extractLsb' 0 8) ∧
    t.byteAt (ea + 1#24) = (if s.cfg.endian = .big then v.extractLsb' 0 8 else v.extractLsb' 8 8) ∧
    (∀ a, a ≠ ea → a ≠ ea + 1#24 → t.byteAt a = s.byteAt a) ∧
    (∀ n, n ∈ t.stored ↔ n = ea.toNat ∨ n = (ea + 1#24).toNat ∨ n ∈ s.stored)

/-- After a byte store of `v` at `ea`: that byte, every other byte as before, and its mark. -/
def HoldsByte (ea : Addr) (v : Byte) (s t : State) : Prop :=
  t.byteAt ea = v ∧ (∀ a, a ≠ ea → t.byteAt a = s.byteAt a) ∧ (∀ n, n ∈ t.stored ↔ n = ea.toNat ∨ n ∈ s.stored)

/-- `rx` after a byte is loaded into it; spec/45_io_memory.md R267. -/
def State.withLowByte (s : State) (x : RegNum) (v : Byte) : Word :=
  if s.cfg.ldbHigh = .zero then v.setWidth 16 else (s.reg x).extractLsb' 8 8 ++ v

/-- A load of this kind at this address where there is no memory: refused if it is not admitted, and from a device it
puts this value in `rx`, with the access recorded; spec/20_memory.md R80. -/
def LoadsPastMemory (i : Instr) (k : AccessKind) (a : Addr) (x : RegNum) (v : Word) (s : State) : Prop :=
  (s.regionKind k a = none → exec i s = .refused (.notAdmitted k a)) ∧
    (s.regionKind k a = some .device → ∃ t, exec i s = .next t ∧ LoadsReg x v (s.tell (.read k a)) t)

/-- A store of this kind at this address where there is no memory: refused if it is not admitted, and to a device it
writes no byte of memory, with its bytes marked and the access recorded; spec/20_memory.md R80, R91. -/
def StoresPastMemory (i : Instr) (k : AccessKind) (a : Addr) (v : Word) (s : State) : Prop :=
  (s.regionKind k a = none → exec i s = .refused (.notAdmitted k a)) ∧
    (s.regionKind k a = some .device →
      ∃ t, exec i s = .next t ∧ (∀ b, t.byteAt b = s.byteAt b) ∧
        (∀ n, n ∈ t.stored ↔ n = a.toNat ∨ (k.width = 2 ∧ n = (a + 1#24).toNat) ∨ n ∈ s.stored) ∧
        StoresOnly (s.tell (.write k a v)) t)

/-- What an exception condition with this code does: the entry, or the refusals of spec/60_exceptions.md R306, R307. -/
def Traps (code : BitVec 4) (ear : Long) (s : State) (r : Result) : Prop :=
  (s.canTrap → ∃ t, r = .next t ∧ EntersException code ear s t) ∧
    (s.msr.e = false → r = .refused .exceptionDisabled) ∧
    (s.msr.e = true → s.msr.eip = true → r = .refused .nestedTrap)

/-- The 32 bits an SPR number reads as, as a number; spec/10_state.md R30, R31, R33. -/
def State.sprView (s : State) (n : Nat) : Nat :=
  match n with
  | 0 =>
    s.msr.i.toNat + 2 * s.msr.e.toNat + 4 * s.msr.vm.toNat + 8 * s.msr.um.toNat + 16 * s.msr.vms.toNat +
      32 * s.msr.ums.toNat + 2 ^ 16 * s.msr.ec.toNat + 2 ^ 29 * s.msr.z.toNat + 2 ^ 30 * s.msr.c.toNat +
      2 ^ 31 * s.msr.eip.toNat
  | 1 => s.lr.toNat
  | 2 => s.ilr.toNat
  | 3 => s.elr.toNat
  | 4 => s.cc.toNat
  | 5 => 2 * s.vbar.toNat
  | 6 => s.ear.toNat
  | 7 => s.ctx.toNat
  | 8 => (s.index 0#2).toNat
  | 9 => (s.index 1#2).toNat
  | 10 => (s.index 2#2).toNat
  | 11 => (s.index 3#2).toNat
  | 12 => (s.fpr 0#2).toNat
  | 13 => (s.fpr 1#2).toNat
  | 14 => (s.fpr 2#2).toNat
  | 15 => (s.fpr 3#2).toNat
  | _ => 0

/-- The SPR numbers user mode may not name; spec/60_exceptions.md R321. -/
abbrev privilegedSpr (y : BitVec 4) : Prop := y = 0#4 ∨ y = 2#4 ∨ y = 3#4 ∨ y = 4#4 ∨ y = 5#4 ∨ y = 6#4 ∨ y = 7#4

/-- An SPR move of this number has its effect: the mode may name it, and an FP register is there. -/
abbrev State.sprOpen (s : State) (y : BitVec 4) : Prop :=
  (s.msr.um = false ∨ ¬ privilegedSpr y) ∧ (12 ≤ y.toNat → s.cfg.hasFpu = true)

/-- A pair as a number, by the numbers of its two registers; spec/00_scope.md R12. -/
def State.pairValue (s : State) (p : BitVec 3) : Nat :=
  if s.cfg.pairHighFirst then
    2 ^ 16 * (s.reg (BitVec.ofNat 4 (2 * p.toNat))).toNat + (s.reg (BitVec.ofNat 4 (2 * p.toNat + 1))).toNat
  else 2 ^ 16 * (s.reg (BitVec.ofNat 4 (2 * p.toNat + 1))).toNat + (s.reg (BitVec.ofNat 4 (2 * p.toNat))).toNat

/-- The unit an instruction needs is part of the build; spec/30_encoding.md R126. -/
def State.hasUnitOf (s : State) (i : Instr) : Bool :=
  match i.unit with
  | .barrel => s.cfg.hasBarrel
  | .float => s.cfg.hasFpu
  | _ => if i.format = .ioPid ∨ i.format = .ioTlb then s.cfg.hasMmu else true

/-- The table of illegal words of spec/30_encoding.md R125. -/
def listedIllegal (w : Word) : Bool :=
  let op := (w.extractLsb' 10 3).toNat
  let group := (w.extractLsb' 8 2).toNat
  let high := (w.extractLsb' 10 4).toNat
  let low := (w.extractLsb' 0 4).toNat
  let middle := (w.extractLsb' 4 3).toNat
  let c := (w.extractLsb' 0 9).toNat
  match (w.extractLsb' 14 2).toNat with
  | 0 => false
  | 1 =>
    match group with
    | 0 => op == 7 && 5 ≤ low
    | 2 => op == 6
    | 1 => op != 0
    | _ =>
      !([0, 8, 4, 12, 2, 10, 6].contains high) || (w.extractLsb' 4 4).toNat != 0 ||
        ((high == 10 || high == 6) && (w.extractLsb' 0 2).toNat != 0)
  | 2 =>
    op == 3 || op == 5 || (op == 7 && !w.getLsbD 9) || (op == 7 && w.getLsbD 9 && !w.getLsbD 13 && c != 0) ||
      (op == 7 && w.getLsbD 9 && w.getLsbD 13 && 3 ≤ c)
  | _ =>
    match high with
    | 2 =>
      [1, 4, 5].contains middle ||
        ([2, 3, 6, 7].contains middle && !((w.extractLsb' 7 3).toNat == 0 && (w.extractLsb' 2 2).toNat == 0))
    | 3 => w.getLsbD 8 || (!w.getLsbD 9 && low != 0)
    | 6 => middle != 0
    | 7 => true
    | 11 => true
    | 15 => true
    | _ => false

end Sys2Proof.Machine
end

