-- ==== Sys2Proof/Certificates/Slice0/Obligations.lean ====
section
/-! DEFINITION. The statements for the provers. The words they are made in are those of `Sys2Proof/Safety.lean`. Where
a docstring names a decision D<n>, the spec marks the rule as its own choice (spec/92_eei_decisions.md). -/

section Statements

open Sys2Proof Sys2Proof.Machine

/-! ### The encoding -/

/-- Decoding the word of a well-formed instruction gives the instruction back, with every operand at every value the
encoding admits; spec/30_encoding.md section 4. -/
def Obligations.DecodeInvertsEncode : Prop := ∀ i : Instr, i.wf = true → decodeWord (encode i) = .ok i

/-- No two words are one instruction and no bit of a word is dropped: what a word decodes to is well-formed and encodes
as that word. Decision D20 (strict decoding); spec/30_encoding.md section 5. -/
def Obligations.DecodingIsStrict : Prop :=
  ∀ (w : Word) (i : Instr), decodeWord w = .ok i → i.wf = true ∧ encode i = w

/-- The words the decoder refuses are exactly those of the spec's table of illegal words. Decision D20;
spec/30_encoding.md section 5. -/
def Obligations.IllegalWordsAreTheListed : Prop :=
  ∀ w : Word, listedIllegal w = true ↔ ∃ r, decodeWord w = .error r

/-- Words written out in the spec's examples, one of each family, decode to the instructions they are written beside. -/
def Obligations.SampleWordsDecode : Prop :=
  decodeWord 0b0000000100100011#16 = .ok (.imm 0x123#14) ∧ decodeWord 0b0100000000010010#16 = .ok (.addRR 1#4 2#4) ∧
    decodeWord 0b0110000000110101#16 = .ok (.addRI 3#4 5#4) ∧ decodeWord 0b0101110001010000#16 = .ok (.sla 5#4) ∧
    decodeWord 0b0101111000010010#16 = .ok (.divsRR 1#4 2#4) ∧ decodeWord 0b0110000100100011#16 = .ok (.bsr 2#4 3#4) ∧
    decodeWord 0b0101001100001011#16 = .ok (.fadd 2#2 3#2) ∧ decodeWord 0b1000010110100011#16 = .ok (.jump 0x1A3#9) ∧
    decodeWord 0b1011001111111100#16 = .ok (.callRelZ 0x1FC#9) ∧ decodeWord 0b1011111000000010#16 = .ok .rete ∧
    decodeWord 0b1100010101000011#16 = .ok (.ldwIdx 5#4 0#2 3#4) ∧
    decodeWord 0b1100100010000001#16 = .ok (.ldspr 1#3 1#4) ∧ decodeWord 0b1100111000100101#16 = .ok (.ldtlb 1#3 5#5) ∧
    decodeWord 0b1111001111111111#16 = .ok (.stbAbs 0#4 0x3FF#10)

/-! ### The step -/

/-- A word placed at `pc` is the word the next fetch gives, in either byte order, and no other byte changes; decision D3
(log 20: the placing stands for the load of the platform's memory image). -/
def Obligations.PlacedWordIsFetched : Prop :=
  ∀ (s : State) (w : Word), s.isMemory .fetch s.pc →
    ∃ t, s.withFetchWord 16 w.toNat = t ∧ t.fetch = .ok (w, t) ∧ t.wordFrom s.pc = w ∧
      (∀ a, a ≠ s.pc → a ≠ s.pc + 1#24 → t.byteAt a = s.byteAt a) ∧ t.pc = s.pc ∧ t.immv = s.immv ∧ t.imma = s.imma ∧
      t.msr = s.msr ∧ KeepsRegs s t ∧ KeepsSystem s t

/-- When the two bytes at `pc` decode to an instruction, no interrupt is taken at this boundary, translation is off and
the platform admits the fetch of bytes no store has touched, a step is that instruction's execution, with the boundary's
`irq` value used up and nothing else added. -/
def Obligations.StepRunsDecodedInstruction : Prop :=
  ∀ (s : State) (i : Instr), s.pc.getLsbD 0 = false → s.msr.vm = false →
    ¬ (s.irq.headD false = true ∧ s.msr.i = true ∧ s.msr.eip = false ∧ s.immv = false) →
    s.isMemory .fetch s.pc → s.pc.toNat ∉ s.stored → (s.pc + 1#24).toNat ∉ s.stored →
    decodeBytes s.cfg.endian [s.byteAt s.pc, s.byteAt (s.pc + 1#24)] = .ok (i, []) →
    step s = exec i { s with irq := s.irq.tail }

/-- The other ends of a step: with translation on it is refused (D31), the fetch of a byte that was stored to is refused
(D33), a fetch the platform does not admit is refused (D34), and a word that is no instruction raises IllegalOpcode,
code 3, with `EAR` kept (D20, D24 to D26). A fetch from a device is recorded and gives a free word (log 6), which is run
if it is an instruction and else raises IllegalOpcode in the same way. -/
def Obligations.StepTrapsOrRefuses : Prop :=
  ∀ s : State, s.pc.getLsbD 0 = false →
    (s.msr.vm = true → step s = .refused .virtualMode) ∧
      (s.msr.vm = false → ¬ (s.irq.headD false = true ∧ s.msr.i = true ∧ s.msr.eip = false ∧ s.immv = false) →
        if s.pc.toNat ∈ s.stored ∨ (s.pc + 1#24).toNat ∈ s.stored then step s = .refused (.fetchOfStored s.pc)
        else if s.regionKind .fetch s.pc = none then step s = .refused (.notAdmitted .fetch s.pc)
        else
          (∀ r, s.isMemory .fetch s.pc → decodeWord (s.wordFrom s.pc) = .error r →
            Traps 3#4 s.ear { s with irq := s.irq.tail } (step s)) ∧
          ∀ u : State, u = { s with irq := s.irq.tail, deviceLog := .read .fetch s.pc :: s.deviceLog } →
            s.regionKind .fetch s.pc = some .device →
            (∀ i, decodeWord (Config.deviceWord s.deviceLog .fetch s.pc) = .ok i → step s = exec i u) ∧
              ∀ r, decodeWord (Config.deviceWord s.deviceLog .fetch s.pc) = .error r → Traps 3#4 s.ear u (step s))

/-- An interrupt is taken when `irq`, `I` are 1 and `EIP` and the latch are 0, and before the fetch: `ILR` gets
the address of the instruction that would have run, the modes are saved and cleared, `I` is cleared, `pc` goes to the
Interrupt vector, and nothing else changes. Decisions D6, D27, D35; spec/60_exceptions.md section 4. -/
def Obligations.InterruptEntered : Prop :=
  ∀ s : State, s.pc.getLsbD 0 = false → s.msr.vm = false → s.irq.headD false = true → s.msr.i = true →
    s.msr.eip = false → s.immv = false →
    ∃ t, step s = .next t ∧ EntersKernelAt 4#24 s t ∧ t.ilr = s.pc.setWidth 32 ∧ t.msr.i = false ∧ t.msr.eip = false ∧
      t.msr.ec = s.msr.ec ∧ t.elr = s.elr ∧ t.ear = s.ear ∧ t.irq = s.irq.tail ∧ t.deviceLog = s.deviceLog

/-! ### Invariants of every step -/

/-- Every step from a state of the machine gives a state of the machine: `pc` even, the exception code not reserved,
memory and the marks of stores in canonical form. -/
def Obligations.StepKeepsInvariant : Prop := ∀ s t : State, s.Inv → step s = .next t → t.Inv

/-- The state after reset is a state of the machine; and that of a build is one exactly when its `RESET_MSR` holds no
reserved exception code, since reset puts all of it in the MSR (log 21, DEDUCED). The values reset leaves open are the
model's (log 2 and log 3, DESIGN CHOICE); the invariant does not depend on them. -/
def Obligations.ResetMeetsInvariant : Prop :=
  State.reset.Inv ∧ ∀ c : Config, (State.resetOf c).Inv ↔ c.resetMsr.toNat / 2 ^ 16 % 2 ^ 4 ≤ 3

/-- What the spec's reset sequence fixes: the MSR all 0, `VBAR` 0, no prefix pending and `pc` at the Reset vector, which
is 0; and, for every build, `pc` at its `RESET_VBAR` and every field of the MSR from its `RESET_MSR`, the reserved bits
reading 0. Decision D32; spec/70_reset_and_hazards.md section 1. -/
def Obligations.ResetIsAtTheVector : Prop :=
  State.reset.sprView 0 = 0 ∧ State.reset.sprView 5 = 0 ∧ State.reset.immv = false ∧ State.reset.pc = 0#24 ∧
    ∀ c : Config, (State.resetOf c).immv = false ∧ (State.resetOf c).pc.toNat = c.resetVbar.toNat % 2 ^ 24 / 2 * 2 ∧
      (State.resetOf c).sprView 5 = c.resetVbar.toNat % 2 ^ 24 / 2 * 2 ∧
      (State.resetOf c).sprView 0 = (c.resetMsr &&& 0xE00F003F#32).toNat

/-- A step from an even `pc` never stops with a fault of the model (log 19, DEDUCED from spec/10_state.md R25): an
instruction fetch is never misaligned. -/
def Obligations.StepNeverFaultsFromEvenPc : Prop := ∀ s : State, s.pc.getLsbD 0 = false → Safe (step s)

/-- A byte of memory that a step changes is marked as stored to, and no mark is ever lost. Decision D33 (a later fetch
of it is refused); spec/20_memory.md section 7. -/
def Obligations.OnlyMarkedBytesChange : Prop :=
  ∀ s t : State, step s = .next t →
    (∀ a, t.byteAt a ≠ s.byteAt a → a.toNat ∈ t.stored) ∧ ∀ n ∈ s.stored, n ∈ t.stored

/-- Only the four store instructions write memory: every other instruction, and every exception it raises, leaves every
byte as it was. spec/45_io_memory.md section 2, spec/20_memory.md section 4. -/
def Obligations.OnlyStoresWriteMemory : Prop :=
  ∀ (i : Instr) (s t : State), exec i s = .next t → (∀ x c, i ≠ .stwAbs x c) → (∀ x y b, i ≠ .stwIdx x y b) →
    (∀ x e, i ≠ .stbAbs x e) → (∀ x y b, i ≠ .stbIdx x y b) → KeepsMemory s t

/-- "The only ways out of user mode are the three trap entries": a step from user mode stays in user mode, or is the
entry through the Interrupt, the Exception or the SVC vector, which saves the modes. The restrictions of user mode this
rests on are decision D30; spec/60_exceptions.md section 8. -/
def Obligations.OnlyTrapsLeaveUserMode : Prop :=
  ∀ s t : State, s.msr.um = true → step s = .next t →
    t.msr.um = true ∨ EntersKernelAt 4#24 s t ∨ EntersKernelAt 8#24 s t ∨ EntersKernelAt 12#24 s t

/-- In user mode no step but a trap entry changes any field of the MSR but the flags, or any of `ILR`, `ELR`, `CC`,
`VBAR`, `EAR`, `CTX`, the PID register and the TLB. Decision D30; spec/60_exceptions.md section 8. -/
def Obligations.UserModeKeepsTheSystem : Prop :=
  ∀ s t : State, s.msr.um = true → t.msr.um = true → step s = .next t →
    KeepsStatus s t ∧ KeepsTrapRegs s t ∧ KeepsControlRegs s t ∧ KeepsMmu s t

/-- While an exception is in progress it stays so until `rete`, the only instruction that clears `EIP`, which returns
through `ELR`. Decision D26; spec/60_exceptions.md section 3. -/
def Obligations.OnlyReteEndsException : Prop :=
  ∀ s t : State, s.msr.eip = true → step s = .next t →
    t.msr.eip = true ∨
      (t.pc.toNat = s.elr.toNat % 2 ^ 24 / 2 * 2 ∧ ∃ u, ({ s with irq := s.irq.tail } : State).fetch = .ok (0xBE02#16, u))

/-- The exception code changes only where an exception is entered, and is then 1, 2 or 3. Decision D29;
spec/10_state.md section 4. -/
def Obligations.CodeOnlyChangesAtException : Prop :=
  ∀ s t : State, step s = .next t →
    t.msr.ec = s.msr.ec ∨
      (EntersKernelAt 8#24 s t ∧ t.msr.eip = true ∧ (t.msr.ec = 1#4 ∨ t.msr.ec = 2#4 ∨ t.msr.ec = 3#4))

/-- The instructions of class FC and class IO, `imm` and `load` leave `Z` and `C` as they were, and so does every
exception entry, of any instruction. Decisions D11, D37; spec/10_state.md section 3, spec/60_exceptions.md section 3. -/
def Obligations.OnlyFlagWritersChangeFlags : Prop :=
  ∀ (i : Instr) (s t : State), exec i s = .next t →
    (i.unit = .main ∨ i.unit = .none ∨ (∃ x y, i = .loadRR x y) ∨ (∃ x b, i = .loadRI x b) ∨
      (s.msr.eip = false ∧ t.msr.eip = true)) →
    KeepsFlags s t

/-! ### Class IMM: the prefix -/

/-- `imm` latches its 14-bit field and changes nothing else but `pc`; and the latch lasts for one instruction: whatever
the next one is, its completion leaves no prefix pending. Decisions D6, D7; spec/40_imm_prefix.md,
spec/70_reset_and_hazards.md section 3. -/
def Obligations.PrefixLatchesForOneInstruction : Prop :=
  (∀ a : BitVec 14, Encodes (a.setWidth 16) (.imm a) ∧
    ∀ s, s.prefixFree → ∃ t, exec (.imm a) s = .next t ∧ t.immv = true ∧ t.imma = a ∧ t.pc = s.pc + 2#24 ∧
      KeepsRegs s t ∧ KeepsFlags s t ∧ KeepsMemory s t ∧ KeepsSystem s t) ∧
    ∀ (i : Instr) (s t : State), (∀ a, i ≠ .imm a) → exec i s = .next t → t.immv = false

/-- An instruction the prefix does not extend, executed with one pending: refused with `IMM_UNDOCUMENTED = refuse`, and
executed as if no prefix had come with `ignore`. Decision D7; spec/30_encoding.md section 3. -/
def Obligations.PrefixBeforeOthers : Prop :=
  ∀ (i : Instr) (s : State), s.immv = true → i.format.takesPrefix = false → s.hasUnitOf i = true →
    (s.cfg.immUndocumented = .refuse → exec i s = .refused .undocumentedPrefix) ∧
      (s.cfg.immUndocumented = .ignore → exec i s = exec i { s with immv := false })

/-- The instructions of a unit the build leaves out raise IllegalOpcode, or are refused, by `UNIT_ABSENT_POLICY`.
Decision D19; spec/30_encoding.md section 5. -/
def Obligations.AbsentUnitTrapsOrRefuses : Prop :=
  ∀ (i : Instr) (s : State), s.hasUnitOf i = false →
    (s.cfg.unitAbsent = .illegal → Traps 3#4 s.ear s (exec i s)) ∧
      (s.cfg.unitAbsent = .refuse → exec i s = .refused .unitAbsent)

/-! ### Class ALU, unit IP -/

/-- `add` and `adc`, both forms: the exact sum modulo 2^16, `Z` from it, `C` its bit 16. Decisions D11, D12;
spec/41_alu_integer.md section 2. -/
def Obligations.AddAndAddWithCarry : Prop :=
  RegisterForm 0x4000#16 .addRR (fun _ _ => True) (fun x v s => AddsTo x ((s.reg x).toNat + v.toNat) s) ∧
    ImmediateForm 0x6000#16 .addRI (fun _ _ => True) (fun x v s => AddsTo x ((s.reg x).toNat + v.toNat) s) ∧
    RegisterForm 0x5000#16 .adcRR (fun _ _ => True)
      (fun x v s => AddsTo x ((s.reg x).toNat + v.toNat + s.msr.c.toNat) s) ∧
    ImmediateForm 0x7000#16 .adcRI (fun _ _ => True)
      (fun x v s => AddsTo x ((s.reg x).toNat + v.toNat + s.msr.c.toNat) s)

/-- `sub` and `sbb`, both forms: the exact difference modulo 2^16, `Z` from it, `C` when it is negative; no exception.
spec/41_alu_integer.md R156 to R159, with `SUB_CARRY_IS_BORROW` at its default. -/
def Obligations.SubtractAndBorrow : Prop :=
  RegisterForm 0x4800#16 .subRR (fun _ s => s.cfg.subCarryIsBorrow = true)
      (fun x v s => SubtractsTo x ((s.reg x).toNat - v.toNat : Int) s) ∧
    ImmediateForm 0x6800#16 .subRI (fun _ s => s.cfg.subCarryIsBorrow = true)
      (fun x v s => SubtractsTo x ((s.reg x).toNat - v.toNat : Int) s) ∧
    RegisterForm 0x5800#16 .sbbRR (fun _ s => s.cfg.subCarryIsBorrow = true)
      (fun x v s => SubtractsTo x ((s.reg x).toNat - v.toNat - s.msr.c.toNat : Int) s) ∧
    ImmediateForm 0x7800#16 .sbbRI (fun _ s => s.cfg.subCarryIsBorrow = true)
      (fun x v s => SubtractsTo x ((s.reg x).toNat - v.toNat - s.msr.c.toNat : Int) s)

/-- `and`, `or`, `xor`, both forms: the bitwise result, `Z` from it, `C` cleared; no exception.
spec/41_alu_integer.md R160 to R165, with `LOGIC_CLEARS_CARRY` at its default. -/
def Obligations.LogicOperations : Prop :=
  RegisterForm 0x4400#16 .andRR (fun _ s => s.cfg.logicClearsCarry = true)
      (fun x v s => LogicTo x (s.reg x &&& v) false s) ∧
    ImmediateForm 0x6400#16 .andRI (fun _ s => s.cfg.logicClearsCarry = true)
      (fun x v s => LogicTo x (s.reg x &&& v) false s) ∧
    RegisterForm 0x5400#16 .orRR (fun _ s => s.cfg.logicClearsCarry = true)
      (fun x v s => LogicTo x (s.reg x ||| v) false s) ∧
    ImmediateForm 0x7400#16 .orRI (fun _ s => s.cfg.logicClearsCarry = true)
      (fun x v s => LogicTo x (s.reg x ||| v) false s) ∧
    RegisterForm 0x4C00#16 .xorRR (fun _ s => s.cfg.logicClearsCarry = true)
      (fun x v s => LogicTo x (s.reg x ^^^ v) false s) ∧
    ImmediateForm 0x6C00#16 .xorRI (fun _ s => s.cfg.logicClearsCarry = true)
      (fun x v s => LogicTo x (s.reg x ^^^ v) false s)

/-- The other carry settings: with `SUB_CARRY_IS_BORROW = false` the sense of `C` is inverted in `sub`, `sbb` and `cmp`
and `sbb` subtracts `1 - C`; with `LOGIC_CLEARS_CARRY = false` logic and `test` keep `C`. Decision D12, general
knowledge; spec/41_alu_integer.md section 8. -/
def Obligations.OtherCarrySettings : Prop :=
  RegisterForm 0x4800#16 .subRR (fun _ s => s.cfg.subCarryIsBorrow = false)
      (fun x v s => SubtractsInverted x ((s.reg x).toNat - v.toNat : Int) s) ∧
    ImmediateForm 0x6800#16 .subRI (fun _ s => s.cfg.subCarryIsBorrow = false)
      (fun x v s => SubtractsInverted x ((s.reg x).toNat - v.toNat : Int) s) ∧
    RegisterForm 0x5800#16 .sbbRR (fun _ s => s.cfg.subCarryIsBorrow = false)
      (fun x v s => SubtractsInverted x ((s.reg x).toNat - v.toNat - (1 - s.msr.c.toNat) : Int) s) ∧
    ImmediateForm 0x7800#16 .sbbRI (fun _ s => s.cfg.subCarryIsBorrow = false)
      (fun x v s => SubtractsInverted x ((s.reg x).toNat - v.toNat - (1 - s.msr.c.toNat) : Int) s) ∧
    RegisterForm 0x4200#16 .cmpRR (fun _ s => s.cfg.subCarryIsBorrow = false)
      (fun x v s => WritesFlags (decide (s.reg x = v)) (decide (v.toNat ≤ (s.reg x).toNat)) s) ∧
    ImmediateForm 0x6200#16 .cmpRI (fun _ s => s.cfg.subCarryIsBorrow = false)
      (fun x v s => WritesFlags (decide (s.reg x = v)) (decide (v.toNat ≤ (s.reg x).toNat)) s) ∧
    RegisterForm 0x4400#16 .andRR (fun _ s => s.cfg.logicClearsCarry = false)
      (fun x v s => LogicTo x (s.reg x &&& v) s.msr.c s) ∧
    ImmediateForm 0x6400#16 .andRI (fun _ s => s.cfg.logicClearsCarry = false)
      (fun x v s => LogicTo x (s.reg x &&& v) s.msr.c s) ∧
    RegisterForm 0x5400#16 .orRR (fun _ s => s.cfg.logicClearsCarry = false)
      (fun x v s => LogicTo x (s.reg x ||| v) s.msr.c s) ∧
    ImmediateForm 0x7400#16 .orRI (fun _ s => s.cfg.logicClearsCarry = false)
      (fun x v s => LogicTo x (s.reg x ||| v) s.msr.c s) ∧
    RegisterForm 0x4C00#16 .xorRR (fun _ s => s.cfg.logicClearsCarry = false)
      (fun x v s => LogicTo x (s.reg x ^^^ v) s.msr.c s) ∧
    ImmediateForm 0x6C00#16 .xorRI (fun _ s => s.cfg.logicClearsCarry = false)
      (fun x v s => LogicTo x (s.reg x ^^^ v) s.msr.c s) ∧
    RegisterForm 0x5200#16 .testRR (fun _ s => s.cfg.logicClearsCarry = false)
      (fun x v s => WritesFlags (decide (s.reg x &&& v = 0#16)) s.msr.c s) ∧
    ImmediateForm 0x7200#16 .testRI (fun _ s => s.cfg.logicClearsCarry = false)
      (fun x v s => WritesFlags (decide (s.reg x &&& v = 0#16)) s.msr.c s)

/-- `cmp` and `test`, both forms: `Z` for equal and `C` for unsigned less, `Z` for no common bit and `C` cleared; no
register is written. And `load rx, ry` copies a register and writes no flag. Decisions D11, D12;
spec/41_alu_integer.md section 5. -/
def Obligations.CompareTestAndCopy : Prop :=
  RegisterForm 0x4200#16 .cmpRR (fun _ s => s.cfg.subCarryIsBorrow = true)
      (fun x v s => WritesFlags (decide (s.reg x = v)) (decide ((s.reg x).toNat < v.toNat)) s) ∧
    ImmediateForm 0x6200#16 .cmpRI (fun _ s => s.cfg.subCarryIsBorrow = true)
      (fun x v s => WritesFlags (decide (s.reg x = v)) (decide ((s.reg x).toNat < v.toNat)) s) ∧
    RegisterForm 0x5200#16 .testRR (fun _ s => s.cfg.logicClearsCarry = true)
      (fun x v s => WritesFlags (decide (s.reg x &&& v = 0#16)) false s) ∧
    ImmediateForm 0x7200#16 .testRI (fun _ s => s.cfg.logicClearsCarry = true)
      (fun x v s => WritesFlags (decide (s.reg x &&& v = 0#16)) false s) ∧
    RegisterForm 0x4A00#16 .loadRR (fun _ _ => True) (fun x v => LoadsReg x v)

/-- `load rx, bbb` puts the immediate in `rx`, 4 bits alone or 16 bits after `imm`, and writes no flag; no exception.
With an `imm` before it, it loads any 16-bit constant. spec/41_alu_integer.md R181. -/
def Obligations.LoadImmediate : Prop :=
  ImmediateForm 0x6A00#16 .loadRI (fun _ _ => True) (fun x v => LoadsReg x v) ∧
    ∀ (x : RegNum) (v : Word) (s : State), s.prefixFree →
      ∃ a b t u, exec (.imm a) s = .next t ∧ exec (.loadRI x b) t = .next u ∧ u.reg x = v

/-- The left shifts: `sla` from the carry, `slx` extending bit 0, `sl0` and `sl1`; the bit 15 that leaves goes to `C`
and `Z` says whether the result is zero; no exception. spec/41_alu_integer.md R166 to R169. -/
def Obligations.LeftShifts : Prop :=
  OneRegisterForm 0x5C00#16 .sla (fun _ => True) (fun x s => ShiftsLeft x s.msr.c s) ∧
    OneRegisterForm 0x5C01#16 .slx (fun _ => True) (fun x s => ShiftsLeft x ((s.reg x).getLsbD 0) s) ∧
    OneRegisterForm 0x5C02#16 .sl0 (fun _ => True) (fun x s => ShiftsLeft x false s) ∧
    OneRegisterForm 0x5C03#16 .sl1 (fun _ => True) (fun x s t => ShiftsLeft x true s t ∧ t.msr.z = false)

/-- The right shifts: `sra` from the carry, `srx` extending bit 15, `sr0` and `sr1`; the bit 0 that leaves goes to `C`
and `Z` says whether the result is zero; no exception. spec/41_alu_integer.md R171 to R174. -/
def Obligations.RightShifts : Prop :=
  OneRegisterForm 0x7C00#16 .sra (fun _ => True) (fun x s => ShiftsRight x s.msr.c s) ∧
    OneRegisterForm 0x7C01#16 .srx (fun _ => True) (fun x s => ShiftsRight x ((s.reg x).getLsbD 15) s) ∧
    OneRegisterForm 0x7C02#16 .sr0 (fun _ => True) (fun x s => ShiftsRight x false s) ∧
    OneRegisterForm 0x7C03#16 .sr1 (fun _ => True) (fun x s t => ShiftsRight x true s t ∧ t.msr.z = false)

/-- `rl` and `rr`: the 17-bit rotation through the carry, or with `ROTATE_THROUGH_CARRY = false` the 16-bit rotation.
Decision D13; spec/41_alu_integer.md section 4. -/
def Obligations.Rotates : Prop :=
  OneRegisterForm 0x5C04#16 .rl (fun _ => True)
      (fun x s => ShiftsLeft x (if s.cfg.rotateThroughCarry then s.msr.c else (s.reg x).getLsbD 15) s) ∧
    OneRegisterForm 0x7C04#16 .rr (fun _ => True)
      (fun x s => ShiftsRight x (if s.cfg.rotateThroughCarry then s.msr.c else (s.reg x).getLsbD 0) s)

/-- `mul` and `muls`, both forms: the exact 32-bit product in `re:rf`, the flags left open (free values, log 8).
Decisions D2, D15; spec/41_alu_integer.md section 6. -/
def Obligations.Multiply : Prop :=
  RegisterForm 0x4600#16 .mulRR (fun _ _ => True)
      (fun x v s => WritesProduct (BitVec.ofNat 16 ((s.reg x).toNat * v.toNat / 2 ^ 16))
        (BitVec.ofNat 16 ((s.reg x).toNat * v.toNat)) s) ∧
    ImmediateForm 0x6600#16 .mulRI (fun _ _ => True)
      (fun x v s => WritesProduct (BitVec.ofNat 16 ((s.reg x).toNat * v.toNat / 2 ^ 16))
        (BitVec.ofNat 16 ((s.reg x).toNat * v.toNat)) s) ∧
    RegisterForm 0x5600#16 .mulsRR (fun _ _ => True)
      (fun x v s => WritesProduct (BitVec.ofInt 16 ((s.reg x).toInt * v.toInt / 2 ^ 16))
        (BitVec.ofInt 16 ((s.reg x).toInt * v.toInt)) s) ∧
    ImmediateForm 0x7600#16 .mulsRI (fun _ _ => True)
      (fun x v s => WritesProduct (BitVec.ofInt 16 ((s.reg x).toInt * v.toInt / 2 ^ 16))
        (BitVec.ofInt 16 ((s.reg x).toInt * v.toInt)) s)

/-- `div` and `divs` by a divisor that is not 0, both forms: `rx` gets the quotient of `re:rf` where it fits 16 bits,
rounded down or toward zero, and is left open where it does not (free value, log 9); the flags are left open (log 8).
Decisions D2, D16; spec/41_alu_integer.md section 7. -/
def Obligations.Divide : Prop :=
  RegisterForm 0x4E00#16 .divRR (fun v _ => v ≠ 0#16)
      (fun x v s => WritesQuotient x (fittingQuotient (s.dividend / v.toNat)) s) ∧
    ImmediateForm 0x6E00#16 .divRI (fun v _ => v ≠ 0#16)
      (fun x v s => WritesQuotient x (fittingQuotient (s.dividend / v.toNat)) s) ∧
    RegisterForm 0x5E00#16 .divsRR (fun v _ => v ≠ 0#16)
      (fun x v s => WritesQuotient x (fittingSignedQuotient (Int.tdiv s.signedDividend v.toInt)) s) ∧
    ImmediateForm 0x7E00#16 .divsRI (fun v _ => v ≠ 0#16)
      (fun x v s => WritesQuotient x (fittingSignedQuotient (Int.tdiv s.signedDividend v.toInt)) s)

/-- The two exceptions an instruction raises on its operands. `div` and `divs` by 0, both forms, raise DivByZero, code
1, with `EAR` kept; an indexed word access through an odd index register raises Unaligned, code 2, with the address in
`EAR`, whatever the platform has there. Nothing is written but by the entry; either is refused with exceptions off or
one in progress. Decisions D24 to D26, D39; spec/60_exceptions.md section 2. -/
def Obligations.OperandsThatTrap : Prop :=
  (∀ x y s, s.prefixFree → s.reg y = 0#16 →
    Traps 1#4 s.ear s (exec (.divRR x y) s) ∧ Traps 1#4 s.ear s (exec (.divsRR x y) s)) ∧
    (∀ (x : RegNum) (b : BitVec 4) (s : State), s.immediate b = 0 →
      Traps 1#4 s.ear s (exec (.divRI x b) s) ∧ Traps 1#4 s.ear s (exec (.divsRI x b) s)) ∧
    ∀ (x : RegNum) (y : BitVec 2) (b : BitVec 4) (s : State) (ear : Long), s.prefixFree → (s.index y).toNat % 2 = 1 →
      ear.toNat = ((s.index y).toNat + 2 * b.toNat) % 2 ^ 24 →
      Traps 2#4 ear s (exec (.ldwIdx x y b) s) ∧ Traps 2#4 ear s (exec (.stwIdx x y b) s)

/-! ### Class ALU, units BS and FP -/

/-- `bsl` and `bsr` by `b + 1`, 1 to 16 places: zeros come in, the last bit shifted out goes to `C`, `Z` says whether
the result is zero. Decision D14; spec/42_alu_barrel_shift.md. -/
def Obligations.BarrelShifts : Prop :=
  ∀ (x : RegNum) (b : BitVec 4),
    (Encodes (operandWord 0x4100#16 x b) (.bsl x b) ∧ Encodes (operandWord 0x6100#16 x b) (.bsr x b)) ∧
      ∀ s : State, s.cfg.hasBarrel = true → s.prefixFree →
        (∃ t, exec (.bsl x b) s = .next t ∧
          WritesReg x (BitVec.ofNat 16 ((s.reg x).toNat * 2 ^ (b.toNat + 1)))
            (decide ((s.reg x).toNat * 2 ^ (b.toNat + 1) % 2 ^ 16 = 0)) ((s.reg x).getLsbD (15 - b.toNat)) s t) ∧
        ∃ t, exec (.bsr x b) s = .next t ∧
          WritesReg x (BitVec.ofNat 16 ((s.reg x).toNat / 2 ^ (b.toNat + 1)))
            (decide ((s.reg x).toNat < 2 ^ (b.toNat + 1))) ((s.reg x).getLsbD b.toNat) s t

/-- `fmul`, `fdiv`, `fadd`, `fsub`: `FPu` gets the configuration function of `FPu` and `FPv`, whatever their values,
and the flags are left open; no arithmetic exception; IllegalOpcode without the unit. spec/43_alu_float.md R207 to
R210. -/
def Obligations.FloatArithmetic : Prop :=
  FloatForm 0x4300#16 .fmul (fun u w s => WritesFp u (s.fpMul (s.fpr u) w) s) ∧
    FloatForm 0x6300#16 .fdiv (fun u w s => WritesFp u (s.fpDiv (s.fpr u) w) s) ∧
    FloatForm 0x5300#16 .fadd (fun u w s => WritesFp u (s.fpAdd (s.fpr u) w) s) ∧
    FloatForm 0x7300#16 .fsub (fun u w s => WritesFp u (s.fpSub (s.fpr u) w) s)

/-- `fint` and `fflt` convert `FPu` in place by the configuration functions and leave the flags open; IllegalOpcode
without the unit. spec/43_alu_float.md R212, R213. -/
def Obligations.FloatConversions : Prop :=
  OneFloatForm 0x6B00#16 .fint (fun u s => WritesFp u (s.fpToInt (s.fpr u)) s) ∧
    OneFloatForm 0x5B00#16 .fflt (fun u s => WritesFp u (s.intToFp (s.fpr u)) s)

/-- `fcmp` writes `Z` and `C` by the configuration function and no register. Decision D18; spec/43_alu_float.md
section 2. -/
def Obligations.FloatCompare : Prop :=
  FloatForm 0x4B00#16 .fcmp
    (fun u w s t => t.msr.z = (s.fpCmp (s.fpr u) w).1 ∧ t.msr.c = (s.fpCmp (s.fpr u) w).2 ∧ KeepsRegs s t ∧
      KeepsMemory s t ∧ KeepsSystem s t ∧ Advances s t)

/-- With the default numerics, an integer of at most 24 bits of magnitude survives `fflt` then `fint` unchanged.
Decision D18, general knowledge (log 10, PRESUMED: IEEE 754 binary32, round to nearest even). -/
def Obligations.IntegerFloatRoundTrip : Prop :=
  ∀ (u : BitVec 2) (s t : State), s.cfg.hasFpu = true → s.cfg.fpNumerics = .ieee754 → s.prefixFree →
    (s.fpr u).toInt.natAbs ≤ 2 ^ 24 → exec (.fflt u) s = .next t →
    ∃ r, exec (.fint u) t = .next r ∧ r.fpr u = s.fpr u

/-! ### Class FC -/

/-- The absolute jumps, of all five suffixes: to the word address, extended by a prefix, when the suffix holds, else on
to the next instruction; no flag, no exception. spec/44_flow_control.md R224 to R228. -/
def Obligations.AbsoluteJumps : Prop :=
  AbsoluteJump 0x8400#16 .jump .always ∧ AbsoluteJump 0x8000#16 .jumpNz .nz ∧ AbsoluteJump 0x9000#16 .jumpZ .z ∧
    AbsoluteJump 0x8800#16 .jumpNc .nc ∧ AbsoluteJump 0x9800#16 .jumpC .c

/-- The relative jumps, of all five suffixes: by the signed count of instructions from the jump itself, modulo 2^24;
no flag, no exception. spec/44_flow_control.md R229 to R233, with `REL_UNIT` and `REL_BASE` at their defaults. -/
def Obligations.RelativeJumps : Prop :=
  RelativeJump State.countsWords State.wordsAway 0x8600#16 .jumpRel .always ∧
    RelativeJump State.countsWords State.wordsAway 0x8200#16 .jumpRelNz .nz ∧
    RelativeJump State.countsWords State.wordsAway 0x9200#16 .jumpRelZ .z ∧
    RelativeJump State.countsWords State.wordsAway 0x8A00#16 .jumpRelNc .nc ∧
    RelativeJump State.countsWords State.wordsAway 0x9A00#16 .jumpRelC .c

/-- The absolute calls, of all five suffixes: as the jumps, and `LR` gets the address of the next instruction, only
when the call is taken; no flag, no exception. spec/44_flow_control.md R234 to R238. -/
def Obligations.AbsoluteCalls : Prop :=
  AbsoluteCall 0xA400#16 .call .always ∧ AbsoluteCall 0xA000#16 .callNz .nz ∧ AbsoluteCall 0xB000#16 .callZ .z ∧
    AbsoluteCall 0xA800#16 .callNc .nc ∧ AbsoluteCall 0xB800#16 .callC .c

/-- The relative calls, of all five suffixes. spec/44_flow_control.md R239 to R243, with `REL_UNIT` and `REL_BASE` at
their defaults. -/
def Obligations.RelativeCalls : Prop :=
  RelativeCall State.countsWords State.wordsAway 0xA600#16 .callRel .always ∧
    RelativeCall State.countsWords State.wordsAway 0xA200#16 .callRelNz .nz ∧
    RelativeCall State.countsWords State.wordsAway 0xB200#16 .callRelZ .z ∧
    RelativeCall State.countsWords State.wordsAway 0xAA00#16 .callRelNc .nc ∧
    RelativeCall State.countsWords State.wordsAway 0xBA00#16 .callRelC .c

/-- The other settings of the relative target, for every relative jump and call: counted from the next instruction with
`REL_BASE = next`, and counted in bytes with `REL_UNIT = 1`, where bit 0 of the target is cleared (log 18, DEDUCED).
Decision D10; spec/44_flow_control.md section 1. -/
def Obligations.OtherRelativeSettings : Prop :=
  RelativeForms (fun s => s.cfg.relUnit = .two ∧ s.cfg.relBase = .next) State.wordsAway ∧
    RelativeForms (fun s => s.cfg.relUnit = .one) State.bytesAway

/-- `svc`: `ELR` gets the address of the next instruction, the modes are saved and cleared, `EIP` is set, `pc` goes to
the SVC vector; `E` is not consulted, and `EC`, `I`, `ILR`, `EAR` stay; refused with an exception in progress.
Decisions D26, D28; spec/44_flow_control.md section 4. -/
def Obligations.SupervisoryCall : Prop :=
  Encodes 0x9E00#16 .svc ∧
    ∀ s : State, s.prefixFree →
      if s.msr.eip = true then exec .svc s = .refused .nestedTrap
      else ∃ t, exec .svc s = .next t ∧ EntersKernelAt 12#24 s t ∧ t.elr = (s.pc + 2#24).setWidth 32 ∧
        t.msr.eip = true ∧ t.msr.ec = s.msr.ec ∧ t.msr.i = s.msr.i ∧ t.ilr = s.ilr ∧ t.ear = s.ear ∧ t.irq = s.irq ∧
        t.deviceLog = s.deviceLog

/-- `ret` goes to the address in bits 23:1 of `LR`, in both modes, and changes nothing else; no flag, no exception.
spec/44_flow_control.md R245. -/
def Obligations.ReturnFromCall : Prop :=
  Encodes 0xBE00#16 .ret ∧
    ∀ s : State, s.prefixFree →
      ∃ t, exec .ret s = .next t ∧ GoesTo (BitVec.ofNat 24 (s.lr.toNat % 2 ^ 24 / 2 * 2)) s t

/-- `reti` and `rete` in kernel mode: to the address in `ILR`, or `ELR`; the saved modes come back and stay saved;
`reti` sets `I`, `rete` clears `EIP`, whatever it was; `EC`, `E`, the flags and every other register stay. Decision D29;
spec/44_flow_control.md section 4. -/
def Obligations.ReturnsFromTraps : Prop :=
  Encodes 0xBE01#16 .reti ∧ Encodes 0xBE02#16 .rete ∧
    ∀ s : State, s.prefixFree → s.msr.um = false →
      (∃ t, exec .reti s = .next t ∧ t.pc = BitVec.ofNat 24 (s.ilr.toNat % 2 ^ 24 / 2 * 2) ∧ t.immv = false ∧
        t.msr = { s.msr with i := true, vm := s.msr.vms, um := s.msr.ums } ∧ KeepsRegs s t ∧ KeepsMemory s t ∧
        KeepsNamedSprs s t ∧ KeepsIndex s t ∧ KeepsFp s t ∧ KeepsMmu s t ∧ KeepsOutside s t) ∧
      ∃ t, exec .rete s = .next t ∧ t.pc = BitVec.ofNat 24 (s.elr.toNat % 2 ^ 24 / 2 * 2) ∧ t.immv = false ∧
        t.msr = { s.msr with eip := false, vm := s.msr.vms, um := s.msr.ums } ∧ KeepsRegs s t ∧ KeepsMemory s t ∧
        KeepsNamedSprs s t ∧ KeepsIndex s t ∧ KeepsFp s t ∧ KeepsMmu s t ∧ KeepsOutside s t

/-- Returning where one came from: after `svc` in a state with no exception in progress, `rete` ends at the instruction
after the `svc`, with `UM`, `VM`, `I`, `E`, `EC`, `Z` and `C` as they were and `EIP` 0, as it was; `VMS` and `UMS` keep
what `svc` saved in them. Decisions D28, D29;
spec/60_exceptions.md section 6. -/
def Obligations.SvcThenReteReturns : Prop :=
  ∀ s t : State, s.pc.getLsbD 0 = false → s.immv = false → exec .svc s = .next t →
    ∃ r, exec .rete t = .next r ∧ r.pc = s.pc + 2#24 ∧ r.msr.um = s.msr.um ∧ r.msr.vm = s.msr.vm ∧ r.msr.eip = false ∧
      r.msr.i = s.msr.i ∧ r.msr.e = s.msr.e ∧ r.msr.ec = s.msr.ec ∧ r.msr.vms = s.msr.vm ∧ r.msr.ums = s.msr.um ∧
      KeepsFlags s r ∧ KeepsRegs s r ∧ KeepsMemory s r

/-- What user mode forbids is refused: the SPR moves that name a privileged register, `ldpid` and `ldtlb`, `reti` and
`rete`. Decision D30; spec/60_exceptions.md section 8. -/
def Obligations.PrivilegedRefused : Prop :=
  ∀ s : State, s.prefixFree → s.msr.um = true →
    (∀ x y, privilegedSpr y →
      exec (.ldspr x y) s = .refused .privileged ∧ exec (.stspr x y) s = .refused .privileged) ∧
      (s.cfg.hasMmu = true → ∀ x, exec (.ldpid x) s = .refused .privileged) ∧
      (s.cfg.hasMmu = true → ∀ x d, exec (.ldtlb x d) s = .refused .privileged) ∧
      exec .reti s = .refused .privileged ∧ exec .rete s = .refused .privileged

/-! ### Class IO: loads and stores -/

/-- The word loads. Absolute: from the word address, extended by a prefix, into `r0` or `r1`. Indexed: from
`IDy + 2b` modulo 2^24 into any register where that is even, else Unaligned, code 2, with the address in `EAR` and
nothing loaded. No flag. spec/45_io_memory.md R263, R264. -/
def Obligations.WordLoads : Prop :=
  (∀ x c, isLowReg x = true → Encodes (wordFormWord 0xC000#16 x c) (.ldwAbs x c) ∧
    ∀ s ea, ea = BitVec.ofNat 24 (s.wordTarget c) → s.isMemory .readWord ea →
      ∃ t, exec (.ldwAbs x c) s = .next t ∧ LoadsReg x (s.wordFrom ea) s t) ∧
    ∀ x y b, Encodes (indexedFormWord 0xC400#16 x y b) (.ldwIdx x y b) ∧
      ∀ s ea, s.prefixFree → ea = BitVec.ofNat 24 ((s.index y).toNat + 2 * b.toNat) →
        if (s.index y).toNat % 2 = 0 then
          s.isMemory .readWord ea → ∃ t, exec (.ldwIdx x y b) s = .next t ∧ LoadsReg x (s.wordFrom ea) s t
        else s.canTrap → ∃ t, exec (.ldwIdx x y b) s = .next t ∧ EntersException 2#4 (ea.setWidth 32) s t

/-- The word stores, in the same way: the two bytes at the address the instruction computes, `State.absWord` or
`State.indexedWord`, hold the register in the byte order of the build and are marked as stored to (log 17, DEDUCED;
decision D33); every other byte reads as before. No flag. Decision D3; spec/45_io_memory.md section 2. -/
def Obligations.WordStores : Prop :=
  (∀ x c, isLowReg x = true → Encodes (wordFormWord 0xD000#16 x c) (.stwAbs x c) ∧
    ∀ s, s.absWord c = BitVec.ofNat 24 (s.wordTarget c) ∧
      (s.isMemory .writeWord (s.absWord c) →
        ∃ t, exec (.stwAbs x c) s = .next t ∧ HoldsWord (s.absWord c) (s.reg x) s t ∧ StoresOnly s t)) ∧
    ∀ x y b, Encodes (indexedFormWord 0xD400#16 x y b) (.stwIdx x y b) ∧
      ∀ s, s.prefixFree → s.indexedWord y b = BitVec.ofNat 24 ((s.index y).toNat + 2 * b.toNat) ∧
        if (s.index y).toNat % 2 = 0 then
          s.isMemory .writeWord (s.indexedWord y b) →
            ∃ t, exec (.stwIdx x y b) s = .next t ∧ HoldsWord (s.indexedWord y b) (s.reg x) s t ∧ StoresOnly s t
        else s.canTrap →
          ∃ t, exec (.stwIdx x y b) s = .next t ∧ EntersException 2#4 ((s.indexedWord y b).setWidth 32) s t

/-- The byte loads, absolute (extended by a prefix) and indexed, from any address: `rx` gets the byte with its high
byte cleared, or kept with `LDB_HIGH = preserve`. Decision D21; spec/45_io_memory.md section 3. -/
def Obligations.ByteLoads : Prop :=
  (∀ x e, isLowReg x = true → Encodes (byteFormWord 0xE000#16 x e) (.ldbAbs x e) ∧
    ∀ s ea, ea = BitVec.ofNat 24 (s.byteTarget e) → s.isMemory .readByte ea →
      ∃ t, exec (.ldbAbs x e) s = .next t ∧
        LoadsReg x (s.withLowByte x (s.byteAt ea)) s t) ∧
    ∀ x y b, Encodes (indexedFormWord 0xE800#16 x y b) (.ldbIdx x y b) ∧
      ∀ s ea, s.prefixFree → ea = BitVec.ofNat 24 ((s.index y).toNat + b.toNat) → s.isMemory .readByte ea →
        ∃ t, exec (.ldbIdx x y b) s = .next t ∧ LoadsReg x (s.withLowByte x (s.byteAt ea)) s t

/-- The byte stores, absolute and indexed: the byte at the address the instruction computes, `State.absByte` or
`State.indexedByte`, holds the low byte of the register and is marked as stored to (log 17, DEDUCED; decision D33);
every other byte reads as before. Decision D21; spec/45_io_memory.md section 3. -/
def Obligations.ByteStores : Prop :=
  (∀ x e, isLowReg x = true → Encodes (byteFormWord 0xF000#16 x e) (.stbAbs x e) ∧
    ∀ s, s.absByte e = BitVec.ofNat 24 (s.byteTarget e) ∧
      (s.isMemory .writeByte (s.absByte e) →
        ∃ t, exec (.stbAbs x e) s = .next t ∧ HoldsByte (s.absByte e) ((s.reg x).extractLsb' 0 8) s t ∧
          StoresOnly s t)) ∧
    ∀ x y b, Encodes (indexedFormWord 0xF800#16 x y b) (.stbIdx x y b) ∧
      ∀ s, s.prefixFree → s.indexedByte y b = BitVec.ofNat 24 ((s.index y).toNat + b.toNat) ∧
        (s.isMemory .writeByte (s.indexedByte y b) →
          ∃ t, exec (.stbIdx x y b) s = .next t ∧
            HoldsByte (s.indexedByte y b) ((s.reg x).extractLsb' 0 8) s t ∧ StoresOnly s t)

/-- The platform decides every access, of all eight forms, the indexed words at even addresses: one it does not admit is
refused (D34), and one to a device completes, recorded as an access to a device, a load with a free value in `rx` (log 6,
DESIGN CHOICE: it depends on the accesses before it), a store with no byte of memory changed and its bytes marked as
stored to (log 17, DEDUCED). -/
def Obligations.PlatformDecidesAccess : Prop :=
  (∀ (x : RegNum) (c : BitVec 9) (s : State),
    LoadsPastMemory (.ldwAbs x c) .readWord (s.absWord c) x
        (Config.deviceWord s.deviceLog .readWord (s.absWord c)) s ∧
      StoresPastMemory (.stwAbs x c) .writeWord (s.absWord c) (s.reg x) s) ∧
    (∀ (x : RegNum) (e : BitVec 10) (s : State),
      LoadsPastMemory (.ldbAbs x e) .readByte (s.absByte e) x
          (s.withLowByte x (Config.deviceByte s.deviceLog (s.absByte e))) s ∧
        StoresPastMemory (.stbAbs x e) .writeByte (s.absByte e) (BitVec.ofNat 16 ((s.reg x).toNat % 256)) s) ∧
    ∀ (x : RegNum) (y : BitVec 2) (b : BitVec 4) (s : State), s.prefixFree →
      ((s.index y).toNat % 2 = 0 →
        LoadsPastMemory (.ldwIdx x y b) .readWord (s.indexedWord y b) x
            (Config.deviceWord s.deviceLog .readWord (s.indexedWord y b)) s ∧
          StoresPastMemory (.stwIdx x y b) .writeWord (s.indexedWord y b) (s.reg x) s) ∧
      LoadsPastMemory (.ldbIdx x y b) .readByte (s.indexedByte y b) x
          (s.withLowByte x (Config.deviceByte s.deviceLog (s.indexedByte y b))) s ∧
        StoresPastMemory (.stbIdx x y b) .writeByte (s.indexedByte y b) (BitVec.ofNat 16 ((s.reg x).toNat % 256)) s

/-- A word stored through an index register is what a word load of the same address gives, and its two bytes are what
the byte loads of that address and the next give: the high byte first in a big-endian build and the low byte first in a
little-endian one, the high byte of the destination by `LDB_HIGH`. Decisions D3, D21, D33; spec/20_memory.md sections 2
and 7. -/
def Obligations.StoredWordLoadsBack : Prop :=
  ∀ (x z : RegNum) (y : BitVec 2) (b : BitVec 4) (s t : State), exec (.stwIdx x y b) s = .next t →
    (s.index y).toNat % 2 = 0 → s.cfg.platform = [.allMemory] →
    (∃ u, exec (.ldwIdx z y b) t = .next u ∧ u.reg z = s.reg x) ∧
      ∀ (f g : BitVec 4) (first second : Byte), f.toNat = 2 * b.toNat → g.toNat = 2 * b.toNat + 1 →
        (s.cfg.endian = .big → first.toNat = (s.reg x).toNat / 256 ∧ second.toNat = (s.reg x).toNat % 256) →
        (s.cfg.endian = .little → first.toNat = (s.reg x).toNat % 256 ∧ second.toNat = (s.reg x).toNat / 256) →
        (∃ u, exec (.ldbIdx z y f) t = .next u ∧ u.reg z = s.withLowByte z first) ∧
          ∃ u, exec (.ldbIdx z y g) t = .next u ∧ u.reg z = s.withLowByte z second

/-! ### Class IO: special purpose registers, index registers, the MMU -/

/-- `ldspr` puts the read view of a special purpose register in the pair and changes nothing else; without an FPU
`FP0` to `FP3` are refused. Decisions D2, D19, D22; spec/46_io_spr_mmu.md section 2. -/
def Obligations.SprReads : Prop :=
  ∀ (x : BitVec 3) (y : BitVec 4),
    Encodes (0xC800#16 ||| BitVec.ofNat 16 (128 * x.toNat) ||| y.setWidth 16) (.ldspr x y) ∧
      ∀ s : State, s.prefixFree →
        (s.sprOpen y → ∃ t, exec (.ldspr x y) s = .next t ∧ t.pairValue x = s.sprView y.toNat ∧
          (∀ r : RegNum, r.toNat / 2 ≠ x.toNat → t.reg r = s.reg r) ∧ KeepsFlags s t ∧ KeepsMemory s t ∧
          KeepsSystem s t ∧ Advances s t) ∧
        (12 ≤ y.toNat → s.cfg.hasFpu = false → exec (.ldspr x y) s = .refused .fpRegisterAbsent)

/-- `stspr` gives a special purpose register the pair's value through the write view: of the MSR only the six writable
fields, of `VBAR` only bits 23:1, of every other all 32 bits; and changes no other. Without an FPU `FP0` to `FP3` are
refused. Decisions D2, D19, D22; spec/46_io_spr_mmu.md section 2. -/
def Obligations.SprWrites : Prop :=
  ∀ (x : BitVec 3) (y : BitVec 4),
    Encodes (0xD800#16 ||| BitVec.ofNat 16 (128 * x.toNat) ||| y.setWidth 16) (.stspr x y) ∧
      ∀ s : State, s.prefixFree →
        (s.sprOpen y → ∃ t, exec (.stspr x y) s = .next t ∧
          (if y = 0#4 then t.sprView 0 = s.sprView 0 / 64 * 64 + s.pairValue x % 64
            else if y = 5#4 then t.sprView 5 = s.pairValue x % 2 ^ 24 / 2 * 2
            else t.sprView y.toNat = s.pairValue x) ∧
          (∀ n, n ≠ y.toNat → t.sprView n = s.sprView n) ∧ KeepsRegs s t ∧ KeepsMemory s t ∧ KeepsMmu s t ∧
          KeepsOutside s t ∧ Advances s t) ∧
        (12 ≤ y.toNat → s.cfg.hasFpu = false → exec (.stspr x y) s = .refused .fpRegisterAbsent)

/-- `incpr`, `wincpr` and `decpr` add 1, add 2 and subtract 1, on all 32 bits, modulo 2^32, in both modes, and change
nothing else. spec/46_io_spr_mmu.md R285 to R287. -/
def Obligations.IndexSteps : Prop :=
  IndexStep 0xC820#16 .incpr 1 ∧ IndexStep 0xC860#16 .wincpr 2 ∧ IndexStep 0xC830#16 .decpr (-1)

/-- `wdecpr` subtracts 2, the amount the spec derives from `wincpr`; spec/46_io_spr_mmu.md section 3. -/
def Obligations.IndexWordDecrement : Prop := IndexStep 0xC870#16 .wdecpr (-2)

/-- `ldpid` puts the low six bits of `rx` in the PID register, and `ldtlb` a whole pair in a TLB entry, in kernel mode
with an MMU; nothing else changes. Decisions D1, D2; spec/46_io_spr_mmu.md section 4. -/
def Obligations.MmuLoads : Prop :=
  (∀ x, Encodes (operandWord 0xCC00#16 x 0#4) (.ldpid x) ∧
    ∀ s, s.prefixFree → s.cfg.hasMmu = true → s.msr.um = false →
      ∃ t, exec (.ldpid x) s = .next t ∧ t.pid.toNat = (s.reg x).toNat % 64 ∧ (∀ d, t.tlbEntry d = s.tlbEntry d) ∧
        KeepsRegs s t ∧ KeepsFlags s t ∧ KeepsMemory s t ∧ KeepsNamedSprs s t ∧ KeepsIndex s t ∧ KeepsFp s t ∧
        KeepsStatus s t ∧ KeepsOutside s t ∧ Advances s t) ∧
    ∀ (x : BitVec 3) (d : BitVec 5),
      Encodes (0xCE00#16 ||| BitVec.ofNat 16 (32 * x.toNat) ||| d.setWidth 16) (.ldtlb x d) ∧
      ∀ s, s.prefixFree → s.cfg.hasMmu = true → s.msr.um = false →
        ∃ t, exec (.ldtlb x d) s = .next t ∧ (t.tlbEntry d).toNat = s.pairValue x ∧
          (∀ f, f ≠ d → t.tlbEntry f = s.tlbEntry f) ∧ t.pid = s.pid ∧ KeepsRegs s t ∧ KeepsFlags s t ∧
          KeepsMemory s t ∧ KeepsNamedSprs s t ∧ KeepsIndex s t ∧ KeepsFp s t ∧ KeepsStatus s t ∧ KeepsOutside s t ∧
          Advances s t

end Statements
end

