-- ==== Sys2Proof/Laws/Decode.lean ====
section
/-! SUPPORT. The opcode map is unambiguous, and what that says of the decoder. -/

namespace Sys2Proof

/-- Two rows have no word in common: some bit fixed in both has different values. -/
def Row.excludes (r q : Row) : Bool := (r.pattern ^^^ q.pattern) &&& (r.mask &&& q.mask) != 0#16

theorem Row.not_both {r q : Row} (h : r.excludes q = true) {w : Word} (hr : r.accepts w = true)
    (hq : q.accepts w = true) : False := by
  simp only [Row.excludes, Row.accepts, bne_iff_ne, beq_iff_eq, ne_eq] at h hr hq
  apply h
  rw [← hr, ← hq]
  apply BitVec.eq_of_getLsbD_eq
  intro i hi
  simp only [BitVec.getLsbD_and, BitVec.getLsbD_xor, BitVec.getLsbD_zero]
  cases w.getLsbD i <;> cases r.mask.getLsbD i <;> cases q.mask.getLsbD i <;> rfl

/-- The rows of the opcode map are pairwise disjoint; spec/30_encoding.md R120. -/
theorem opcodeMap_disjoint : opcodeMap.Pairwise (fun r q => r.excludes q = true) := by
  decide +kernel

theorem find_of_disjoint {l : List Row} (h : l.Pairwise (fun r q => r.excludes q = true)) {r : Row} (hr : r ∈ l)
    {w : Word} (hw : r.accepts w = true) : l.find? (fun q => q.accepts w) = some r := by
  induction l with
  | nil => simp at hr
  | cons q l ih =>
    obtain ⟨h1, h2⟩ := List.pairwise_cons.1 h
    rcases List.mem_cons.1 hr with rfl | hr
    · simp [hw]
    · have hq : q.accepts w = false := by
        cases hc : q.accepts w
        · rfl
        · exact (Row.not_both (h1 r hr) hc hw).elim
      simp [hq, ih h2 hr]

/-- A word that matches a row decodes by that row. -/
theorem decodeWord_of_row {r : Row} (hr : r ∈ opcodeMap) {w : Word} (hw : r.accepts w = true) :
    decodeWord w = .ok (r.build w) := by
  simp [decodeWord, find_of_disjoint opcodeMap_disjoint hr hw]

/-- A word that decodes matches a row, and decodes by it. -/
theorem row_of_decodeWord {w : Word} {i : Instr} (h : decodeWord w = .ok i) :
    ∃ r ∈ opcodeMap, r.accepts w = true ∧ r.build w = i := by
  unfold decodeWord at h
  split at h
  · rename_i r hr
    exact ⟨r, List.mem_of_find?_eq_some hr, by simpa using List.find?_some hr, by simpa using h⟩
  · cases h

/-- A word is illegal exactly when it matches no row. -/
theorem decodeWord_error_iff (w : Word) :
    (∃ e, decodeWord w = .error e) ↔ ∀ r ∈ opcodeMap, r.accepts w = false := by
  unfold decodeWord
  constructor
  · rintro ⟨e, h⟩ r hr
    split at h
    · cases h
    · rename_i hn
      simpa using List.find?_eq_none.1 hn r hr
  · intro h
    have : opcodeMap.find? (fun r => r.accepts w) = none := List.find?_eq_none.2 (fun r hr => by simp [h r hr])
    exact ⟨_, by rw [this]⟩

/-- The byte that comes first and the one that comes second make the word again. -/
theorem joinBytes_halves (e : Endian) (w : Word) : joinBytes e (firstByte e w) (secondByte e w) = w := by
  cases e <;> simp only [joinBytes, firstByte, secondByte] <;> grind

/-- The decoder reads the bytes of an instruction in either byte order as it reads its word. -/
theorem decodeBytes_halves (e : Endian) (w : Word) (rest : List Byte) :
    decodeBytes e (firstByte e w :: secondByte e w :: rest) =
      match decodeWord w with
      | .ok i => .ok (i, rest)
      | .error r => .error r := by
  cases h : decodeWord w <;> simp [decodeBytes, joinBytes_halves, h]

end Sys2Proof
end

