-- ==== Sys2Proof/Laws/State.lean ====
section
/-! SUPPORT. One lemma per field (and per named reading) for each update of the state. Each holds by `rfl`. -/

namespace Sys2Proof.Machine

variable (s : State)

@[simp] theorem setReg_cfg (r : RegNum) (v : Word) : (s.setReg r v).cfg = s.cfg := rfl
@[simp] theorem setReg_regs (r : RegNum) (v : Word) : (s.setReg r v).regs = s.regs.set r.toNat v r.isLt := rfl
@[simp] theorem setReg_pc (r : RegNum) (v : Word) : (s.setReg r v).pc = s.pc := rfl
@[simp] theorem setReg_msr (r : RegNum) (v : Word) : (s.setReg r v).msr = s.msr := rfl
@[simp] theorem setReg_lr (r : RegNum) (v : Word) : (s.setReg r v).lr = s.lr := rfl
@[simp] theorem setReg_ilr (r : RegNum) (v : Word) : (s.setReg r v).ilr = s.ilr := rfl
@[simp] theorem setReg_elr (r : RegNum) (v : Word) : (s.setReg r v).elr = s.elr := rfl
@[simp] theorem setReg_cc (r : RegNum) (v : Word) : (s.setReg r v).cc = s.cc := rfl
@[simp] theorem setReg_vbar (r : RegNum) (v : Word) : (s.setReg r v).vbar = s.vbar := rfl
@[simp] theorem setReg_ear (r : RegNum) (v : Word) : (s.setReg r v).ear = s.ear := rfl
@[simp] theorem setReg_ctx (r : RegNum) (v : Word) : (s.setReg r v).ctx = s.ctx := rfl
@[simp] theorem setReg_ids (r : RegNum) (v : Word) : (s.setReg r v).ids = s.ids := rfl
@[simp] theorem setReg_fps (r : RegNum) (v : Word) : (s.setReg r v).fps = s.fps := rfl
@[simp] theorem setReg_pid (r : RegNum) (v : Word) : (s.setReg r v).pid = s.pid := rfl
@[simp] theorem setReg_tlb (r : RegNum) (v : Word) : (s.setReg r v).tlb = s.tlb := rfl
@[simp] theorem setReg_immv (r : RegNum) (v : Word) : (s.setReg r v).immv = s.immv := rfl
@[simp] theorem setReg_imma (r : RegNum) (v : Word) : (s.setReg r v).imma = s.imma := rfl
@[simp] theorem setReg_mem (r : RegNum) (v : Word) : (s.setReg r v).mem = s.mem := rfl
@[simp] theorem setReg_stored (r : RegNum) (v : Word) : (s.setReg r v).stored = s.stored := rfl
@[simp] theorem setReg_irq (r : RegNum) (v : Word) : (s.setReg r v).irq = s.irq := rfl
@[simp] theorem setReg_deviceLog (r : RegNum) (v : Word) : (s.setReg r v).deviceLog = s.deviceLog := rfl
@[simp] theorem setReg_draws (r : RegNum) (v : Word) : (s.setReg r v).draws = s.draws := rfl
@[simp] theorem setReg_index (r : RegNum) (v : Word) (q : BitVec 2) : (s.setReg r v).index q = s.index q := rfl
@[simp] theorem setReg_fpr (r : RegNum) (v : Word) (q : BitVec 2) : (s.setReg r v).fpr q = s.fpr q := rfl
@[simp] theorem setReg_tlbEntry (r : RegNum) (v : Word) (q : BitVec 5) : (s.setReg r v).tlbEntry q = s.tlbEntry q := rfl
@[simp] theorem setReg_byteAt (r : RegNum) (v : Word) (q : Addr) : (s.setReg r v).byteAt q = s.byteAt q := rfl
@[simp] theorem setReg_npc (r : RegNum) (v : Word) : (s.setReg r v).npc = s.npc := rfl

@[simp] theorem setIndex_cfg (y : BitVec 2) (v : Long) : (s.setIndex y v).cfg = s.cfg := rfl
@[simp] theorem setIndex_regs (y : BitVec 2) (v : Long) : (s.setIndex y v).regs = s.regs := rfl
@[simp] theorem setIndex_pc (y : BitVec 2) (v : Long) : (s.setIndex y v).pc = s.pc := rfl
@[simp] theorem setIndex_msr (y : BitVec 2) (v : Long) : (s.setIndex y v).msr = s.msr := rfl
@[simp] theorem setIndex_lr (y : BitVec 2) (v : Long) : (s.setIndex y v).lr = s.lr := rfl
@[simp] theorem setIndex_ilr (y : BitVec 2) (v : Long) : (s.setIndex y v).ilr = s.ilr := rfl
@[simp] theorem setIndex_elr (y : BitVec 2) (v : Long) : (s.setIndex y v).elr = s.elr := rfl
@[simp] theorem setIndex_cc (y : BitVec 2) (v : Long) : (s.setIndex y v).cc = s.cc := rfl
@[simp] theorem setIndex_vbar (y : BitVec 2) (v : Long) : (s.setIndex y v).vbar = s.vbar := rfl
@[simp] theorem setIndex_ear (y : BitVec 2) (v : Long) : (s.setIndex y v).ear = s.ear := rfl
@[simp] theorem setIndex_ctx (y : BitVec 2) (v : Long) : (s.setIndex y v).ctx = s.ctx := rfl
@[simp] theorem setIndex_ids (y : BitVec 2) (v : Long) : (s.setIndex y v).ids = s.ids.set y.toNat v y.isLt := rfl
@[simp] theorem setIndex_fps (y : BitVec 2) (v : Long) : (s.setIndex y v).fps = s.fps := rfl
@[simp] theorem setIndex_pid (y : BitVec 2) (v : Long) : (s.setIndex y v).pid = s.pid := rfl
@[simp] theorem setIndex_tlb (y : BitVec 2) (v : Long) : (s.setIndex y v).tlb = s.tlb := rfl
@[simp] theorem setIndex_immv (y : BitVec 2) (v : Long) : (s.setIndex y v).immv = s.immv := rfl
@[simp] theorem setIndex_imma (y : BitVec 2) (v : Long) : (s.setIndex y v).imma = s.imma := rfl
@[simp] theorem setIndex_mem (y : BitVec 2) (v : Long) : (s.setIndex y v).mem = s.mem := rfl
@[simp] theorem setIndex_stored (y : BitVec 2) (v : Long) : (s.setIndex y v).stored = s.stored := rfl
@[simp] theorem setIndex_irq (y : BitVec 2) (v : Long) : (s.setIndex y v).irq = s.irq := rfl
@[simp] theorem setIndex_deviceLog (y : BitVec 2) (v : Long) : (s.setIndex y v).deviceLog = s.deviceLog := rfl
@[simp] theorem setIndex_draws (y : BitVec 2) (v : Long) : (s.setIndex y v).draws = s.draws := rfl
@[simp] theorem setIndex_reg (y : BitVec 2) (v : Long) (q : RegNum) : (s.setIndex y v).reg q = s.reg q := rfl
@[simp] theorem setIndex_fpr (y : BitVec 2) (v : Long) (q : BitVec 2) : (s.setIndex y v).fpr q = s.fpr q := rfl
@[simp] theorem setIndex_tlbEntry (y : BitVec 2) (v : Long) (q : BitVec 5) : (s.setIndex y v).tlbEntry q = s.tlbEntry q := rfl
@[simp] theorem setIndex_byteAt (y : BitVec 2) (v : Long) (q : Addr) : (s.setIndex y v).byteAt q = s.byteAt q := rfl
@[simp] theorem setIndex_npc (y : BitVec 2) (v : Long) : (s.setIndex y v).npc = s.npc := rfl

@[simp] theorem setFpr_cfg (u : BitVec 2) (v : Long) : (s.setFpr u v).cfg = s.cfg := rfl
@[simp] theorem setFpr_regs (u : BitVec 2) (v : Long) : (s.setFpr u v).regs = s.regs := rfl
@[simp] theorem setFpr_pc (u : BitVec 2) (v : Long) : (s.setFpr u v).pc = s.pc := rfl
@[simp] theorem setFpr_msr (u : BitVec 2) (v : Long) : (s.setFpr u v).msr = s.msr := rfl
@[simp] theorem setFpr_lr (u : BitVec 2) (v : Long) : (s.setFpr u v).lr = s.lr := rfl
@[simp] theorem setFpr_ilr (u : BitVec 2) (v : Long) : (s.setFpr u v).ilr = s.ilr := rfl
@[simp] theorem setFpr_elr (u : BitVec 2) (v : Long) : (s.setFpr u v).elr = s.elr := rfl
@[simp] theorem setFpr_cc (u : BitVec 2) (v : Long) : (s.setFpr u v).cc = s.cc := rfl
@[simp] theorem setFpr_vbar (u : BitVec 2) (v : Long) : (s.setFpr u v).vbar = s.vbar := rfl
@[simp] theorem setFpr_ear (u : BitVec 2) (v : Long) : (s.setFpr u v).ear = s.ear := rfl
@[simp] theorem setFpr_ctx (u : BitVec 2) (v : Long) : (s.setFpr u v).ctx = s.ctx := rfl
@[simp] theorem setFpr_ids (u : BitVec 2) (v : Long) : (s.setFpr u v).ids = s.ids := rfl
@[simp] theorem setFpr_fps (u : BitVec 2) (v : Long) : (s.setFpr u v).fps = s.fps.set u.toNat v u.isLt := rfl
@[simp] theorem setFpr_pid (u : BitVec 2) (v : Long) : (s.setFpr u v).pid = s.pid := rfl
@[simp] theorem setFpr_tlb (u : BitVec 2) (v : Long) : (s.setFpr u v).tlb = s.tlb := rfl
@[simp] theorem setFpr_immv (u : BitVec 2) (v : Long) : (s.setFpr u v).immv = s.immv := rfl
@[simp] theorem setFpr_imma (u : BitVec 2) (v : Long) : (s.setFpr u v).imma = s.imma := rfl
@[simp] theorem setFpr_mem (u : BitVec 2) (v : Long) : (s.setFpr u v).mem = s.mem := rfl
@[simp] theorem setFpr_stored (u : BitVec 2) (v : Long) : (s.setFpr u v).stored = s.stored := rfl
@[simp] theorem setFpr_irq (u : BitVec 2) (v : Long) : (s.setFpr u v).irq = s.irq := rfl
@[simp] theorem setFpr_deviceLog (u : BitVec 2) (v : Long) : (s.setFpr u v).deviceLog = s.deviceLog := rfl
@[simp] theorem setFpr_draws (u : BitVec 2) (v : Long) : (s.setFpr u v).draws = s.draws := rfl
@[simp] theorem setFpr_reg (u : BitVec 2) (v : Long) (q : RegNum) : (s.setFpr u v).reg q = s.reg q := rfl
@[simp] theorem setFpr_index (u : BitVec 2) (v : Long) (q : BitVec 2) : (s.setFpr u v).index q = s.index q := rfl
@[simp] theorem setFpr_tlbEntry (u : BitVec 2) (v : Long) (q : BitVec 5) : (s.setFpr u v).tlbEntry q = s.tlbEntry q := rfl
@[simp] theorem setFpr_byteAt (u : BitVec 2) (v : Long) (q : Addr) : (s.setFpr u v).byteAt q = s.byteAt q := rfl
@[simp] theorem setFpr_npc (u : BitVec 2) (v : Long) : (s.setFpr u v).npc = s.npc := rfl

@[simp] theorem setTlb_cfg (d : BitVec 5) (v : Long) : (s.setTlb d v).cfg = s.cfg := rfl
@[simp] theorem setTlb_regs (d : BitVec 5) (v : Long) : (s.setTlb d v).regs = s.regs := rfl
@[simp] theorem setTlb_pc (d : BitVec 5) (v : Long) : (s.setTlb d v).pc = s.pc := rfl
@[simp] theorem setTlb_msr (d : BitVec 5) (v : Long) : (s.setTlb d v).msr = s.msr := rfl
@[simp] theorem setTlb_lr (d : BitVec 5) (v : Long) : (s.setTlb d v).lr = s.lr := rfl
@[simp] theorem setTlb_ilr (d : BitVec 5) (v : Long) : (s.setTlb d v).ilr = s.ilr := rfl
@[simp] theorem setTlb_elr (d : BitVec 5) (v : Long) : (s.setTlb d v).elr = s.elr := rfl
@[simp] theorem setTlb_cc (d : BitVec 5) (v : Long) : (s.setTlb d v).cc = s.cc := rfl
@[simp] theorem setTlb_vbar (d : BitVec 5) (v : Long) : (s.setTlb d v).vbar = s.vbar := rfl
@[simp] theorem setTlb_ear (d : BitVec 5) (v : Long) : (s.setTlb d v).ear = s.ear := rfl
@[simp] theorem setTlb_ctx (d : BitVec 5) (v : Long) : (s.setTlb d v).ctx = s.ctx := rfl
@[simp] theorem setTlb_ids (d : BitVec 5) (v : Long) : (s.setTlb d v).ids = s.ids := rfl
@[simp] theorem setTlb_fps (d : BitVec 5) (v : Long) : (s.setTlb d v).fps = s.fps := rfl
@[simp] theorem setTlb_pid (d : BitVec 5) (v : Long) : (s.setTlb d v).pid = s.pid := rfl
@[simp] theorem setTlb_tlb (d : BitVec 5) (v : Long) : (s.setTlb d v).tlb = s.tlb.set d.toNat v d.isLt := rfl
@[simp] theorem setTlb_immv (d : BitVec 5) (v : Long) : (s.setTlb d v).immv = s.immv := rfl
@[simp] theorem setTlb_imma (d : BitVec 5) (v : Long) : (s.setTlb d v).imma = s.imma := rfl
@[simp] theorem setTlb_mem (d : BitVec 5) (v : Long) : (s.setTlb d v).mem = s.mem := rfl
@[simp] theorem setTlb_stored (d : BitVec 5) (v : Long) : (s.setTlb d v).stored = s.stored := rfl
@[simp] theorem setTlb_irq (d : BitVec 5) (v : Long) : (s.setTlb d v).irq = s.irq := rfl
@[simp] theorem setTlb_deviceLog (d : BitVec 5) (v : Long) : (s.setTlb d v).deviceLog = s.deviceLog := rfl
@[simp] theorem setTlb_draws (d : BitVec 5) (v : Long) : (s.setTlb d v).draws = s.draws := rfl
@[simp] theorem setTlb_reg (d : BitVec 5) (v : Long) (q : RegNum) : (s.setTlb d v).reg q = s.reg q := rfl
@[simp] theorem setTlb_index (d : BitVec 5) (v : Long) (q : BitVec 2) : (s.setTlb d v).index q = s.index q := rfl
@[simp] theorem setTlb_fpr (d : BitVec 5) (v : Long) (q : BitVec 2) : (s.setTlb d v).fpr q = s.fpr q := rfl
@[simp] theorem setTlb_byteAt (d : BitVec 5) (v : Long) (q : Addr) : (s.setTlb d v).byteAt q = s.byteAt q := rfl
@[simp] theorem setTlb_npc (d : BitVec 5) (v : Long) : (s.setTlb d v).npc = s.npc := rfl

@[simp] theorem setPid_cfg (v : BitVec 6) : (s.setPid v).cfg = s.cfg := rfl
@[simp] theorem setPid_regs (v : BitVec 6) : (s.setPid v).regs = s.regs := rfl
@[simp] theorem setPid_pc (v : BitVec 6) : (s.setPid v).pc = s.pc := rfl
@[simp] theorem setPid_msr (v : BitVec 6) : (s.setPid v).msr = s.msr := rfl
@[simp] theorem setPid_lr (v : BitVec 6) : (s.setPid v).lr = s.lr := rfl
@[simp] theorem setPid_ilr (v : BitVec 6) : (s.setPid v).ilr = s.ilr := rfl
@[simp] theorem setPid_elr (v : BitVec 6) : (s.setPid v).elr = s.elr := rfl
@[simp] theorem setPid_cc (v : BitVec 6) : (s.setPid v).cc = s.cc := rfl
@[simp] theorem setPid_vbar (v : BitVec 6) : (s.setPid v).vbar = s.vbar := rfl
@[simp] theorem setPid_ear (v : BitVec 6) : (s.setPid v).ear = s.ear := rfl
@[simp] theorem setPid_ctx (v : BitVec 6) : (s.setPid v).ctx = s.ctx := rfl
@[simp] theorem setPid_ids (v : BitVec 6) : (s.setPid v).ids = s.ids := rfl
@[simp] theorem setPid_fps (v : BitVec 6) : (s.setPid v).fps = s.fps := rfl
@[simp] theorem setPid_pid (v : BitVec 6) : (s.setPid v).pid = v := rfl
@[simp] theorem setPid_tlb (v : BitVec 6) : (s.setPid v).tlb = s.tlb := rfl
@[simp] theorem setPid_immv (v : BitVec 6) : (s.setPid v).immv = s.immv := rfl
@[simp] theorem setPid_imma (v : BitVec 6) : (s.setPid v).imma = s.imma := rfl
@[simp] theorem setPid_mem (v : BitVec 6) : (s.setPid v).mem = s.mem := rfl
@[simp] theorem setPid_stored (v : BitVec 6) : (s.setPid v).stored = s.stored := rfl
@[simp] theorem setPid_irq (v : BitVec 6) : (s.setPid v).irq = s.irq := rfl
@[simp] theorem setPid_deviceLog (v : BitVec 6) : (s.setPid v).deviceLog = s.deviceLog := rfl
@[simp] theorem setPid_draws (v : BitVec 6) : (s.setPid v).draws = s.draws := rfl
@[simp] theorem setPid_reg (v : BitVec 6) (q : RegNum) : (s.setPid v).reg q = s.reg q := rfl
@[simp] theorem setPid_index (v : BitVec 6) (q : BitVec 2) : (s.setPid v).index q = s.index q := rfl
@[simp] theorem setPid_fpr (v : BitVec 6) (q : BitVec 2) : (s.setPid v).fpr q = s.fpr q := rfl
@[simp] theorem setPid_tlbEntry (v : BitVec 6) (q : BitVec 5) : (s.setPid v).tlbEntry q = s.tlbEntry q := rfl
@[simp] theorem setPid_byteAt (v : BitVec 6) (q : Addr) : (s.setPid v).byteAt q = s.byteAt q := rfl
@[simp] theorem setPid_npc (v : BitVec 6) : (s.setPid v).npc = s.npc := rfl

@[simp] theorem setPc_cfg (a : Addr) : (s.setPc a).cfg = s.cfg := rfl
@[simp] theorem setPc_regs (a : Addr) : (s.setPc a).regs = s.regs := rfl
@[simp] theorem setPc_pc (a : Addr) : (s.setPc a).pc = a := rfl
@[simp] theorem setPc_msr (a : Addr) : (s.setPc a).msr = s.msr := rfl
@[simp] theorem setPc_lr (a : Addr) : (s.setPc a).lr = s.lr := rfl
@[simp] theorem setPc_ilr (a : Addr) : (s.setPc a).ilr = s.ilr := rfl
@[simp] theorem setPc_elr (a : Addr) : (s.setPc a).elr = s.elr := rfl
@[simp] theorem setPc_cc (a : Addr) : (s.setPc a).cc = s.cc := rfl
@[simp] theorem setPc_vbar (a : Addr) : (s.setPc a).vbar = s.vbar := rfl
@[simp] theorem setPc_ear (a : Addr) : (s.setPc a).ear = s.ear := rfl
@[simp] theorem setPc_ctx (a : Addr) : (s.setPc a).ctx = s.ctx := rfl
@[simp] theorem setPc_ids (a : Addr) : (s.setPc a).ids = s.ids := rfl
@[simp] theorem setPc_fps (a : Addr) : (s.setPc a).fps = s.fps := rfl
@[simp] theorem setPc_pid (a : Addr) : (s.setPc a).pid = s.pid := rfl
@[simp] theorem setPc_tlb (a : Addr) : (s.setPc a).tlb = s.tlb := rfl
@[simp] theorem setPc_immv (a : Addr) : (s.setPc a).immv = s.immv := rfl
@[simp] theorem setPc_imma (a : Addr) : (s.setPc a).imma = s.imma := rfl
@[simp] theorem setPc_mem (a : Addr) : (s.setPc a).mem = s.mem := rfl
@[simp] theorem setPc_stored (a : Addr) : (s.setPc a).stored = s.stored := rfl
@[simp] theorem setPc_irq (a : Addr) : (s.setPc a).irq = s.irq := rfl
@[simp] theorem setPc_deviceLog (a : Addr) : (s.setPc a).deviceLog = s.deviceLog := rfl
@[simp] theorem setPc_draws (a : Addr) : (s.setPc a).draws = s.draws := rfl
@[simp] theorem setPc_reg (a : Addr) (q : RegNum) : (s.setPc a).reg q = s.reg q := rfl
@[simp] theorem setPc_index (a : Addr) (q : BitVec 2) : (s.setPc a).index q = s.index q := rfl
@[simp] theorem setPc_fpr (a : Addr) (q : BitVec 2) : (s.setPc a).fpr q = s.fpr q := rfl
@[simp] theorem setPc_tlbEntry (a : Addr) (q : BitVec 5) : (s.setPc a).tlbEntry q = s.tlbEntry q := rfl
@[simp] theorem setPc_byteAt (a : Addr) (q : Addr) : (s.setPc a).byteAt q = s.byteAt q := rfl

@[simp] theorem setMsr_cfg (m : Msr) : (s.setMsr m).cfg = s.cfg := rfl
@[simp] theorem setMsr_regs (m : Msr) : (s.setMsr m).regs = s.regs := rfl
@[simp] theorem setMsr_pc (m : Msr) : (s.setMsr m).pc = s.pc := rfl
@[simp] theorem setMsr_msr (m : Msr) : (s.setMsr m).msr = m := rfl
@[simp] theorem setMsr_lr (m : Msr) : (s.setMsr m).lr = s.lr := rfl
@[simp] theorem setMsr_ilr (m : Msr) : (s.setMsr m).ilr = s.ilr := rfl
@[simp] theorem setMsr_elr (m : Msr) : (s.setMsr m).elr = s.elr := rfl
@[simp] theorem setMsr_cc (m : Msr) : (s.setMsr m).cc = s.cc := rfl
@[simp] theorem setMsr_vbar (m : Msr) : (s.setMsr m).vbar = s.vbar := rfl
@[simp] theorem setMsr_ear (m : Msr) : (s.setMsr m).ear = s.ear := rfl
@[simp] theorem setMsr_ctx (m : Msr) : (s.setMsr m).ctx = s.ctx := rfl
@[simp] theorem setMsr_ids (m : Msr) : (s.setMsr m).ids = s.ids := rfl
@[simp] theorem setMsr_fps (m : Msr) : (s.setMsr m).fps = s.fps := rfl
@[simp] theorem setMsr_pid (m : Msr) : (s.setMsr m).pid = s.pid := rfl
@[simp] theorem setMsr_tlb (m : Msr) : (s.setMsr m).tlb = s.tlb := rfl
@[simp] theorem setMsr_immv (m : Msr) : (s.setMsr m).immv = s.immv := rfl
@[simp] theorem setMsr_imma (m : Msr) : (s.setMsr m).imma = s.imma := rfl
@[simp] theorem setMsr_mem (m : Msr) : (s.setMsr m).mem = s.mem := rfl
@[simp] theorem setMsr_stored (m : Msr) : (s.setMsr m).stored = s.stored := rfl
@[simp] theorem setMsr_irq (m : Msr) : (s.setMsr m).irq = s.irq := rfl
@[simp] theorem setMsr_deviceLog (m : Msr) : (s.setMsr m).deviceLog = s.deviceLog := rfl
@[simp] theorem setMsr_draws (m : Msr) : (s.setMsr m).draws = s.draws := rfl
@[simp] theorem setMsr_reg (m : Msr) (q : RegNum) : (s.setMsr m).reg q = s.reg q := rfl
@[simp] theorem setMsr_index (m : Msr) (q : BitVec 2) : (s.setMsr m).index q = s.index q := rfl
@[simp] theorem setMsr_fpr (m : Msr) (q : BitVec 2) : (s.setMsr m).fpr q = s.fpr q := rfl
@[simp] theorem setMsr_tlbEntry (m : Msr) (q : BitVec 5) : (s.setMsr m).tlbEntry q = s.tlbEntry q := rfl
@[simp] theorem setMsr_byteAt (m : Msr) (q : Addr) : (s.setMsr m).byteAt q = s.byteAt q := rfl
@[simp] theorem setMsr_npc (m : Msr) : (s.setMsr m).npc = s.npc := rfl

@[simp] theorem setFlags_cfg (z c : Bool) : (s.setFlags z c).cfg = s.cfg := rfl
@[simp] theorem setFlags_regs (z c : Bool) : (s.setFlags z c).regs = s.regs := rfl
@[simp] theorem setFlags_pc (z c : Bool) : (s.setFlags z c).pc = s.pc := rfl
@[simp] theorem setFlags_msr (z c : Bool) : (s.setFlags z c).msr = { s.msr with z := z, c := c } := rfl
@[simp] theorem setFlags_lr (z c : Bool) : (s.setFlags z c).lr = s.lr := rfl
@[simp] theorem setFlags_ilr (z c : Bool) : (s.setFlags z c).ilr = s.ilr := rfl
@[simp] theorem setFlags_elr (z c : Bool) : (s.setFlags z c).elr = s.elr := rfl
@[simp] theorem setFlags_cc (z c : Bool) : (s.setFlags z c).cc = s.cc := rfl
@[simp] theorem setFlags_vbar (z c : Bool) : (s.setFlags z c).vbar = s.vbar := rfl
@[simp] theorem setFlags_ear (z c : Bool) : (s.setFlags z c).ear = s.ear := rfl
@[simp] theorem setFlags_ctx (z c : Bool) : (s.setFlags z c).ctx = s.ctx := rfl
@[simp] theorem setFlags_ids (z c : Bool) : (s.setFlags z c).ids = s.ids := rfl
@[simp] theorem setFlags_fps (z c : Bool) : (s.setFlags z c).fps = s.fps := rfl
@[simp] theorem setFlags_pid (z c : Bool) : (s.setFlags z c).pid = s.pid := rfl
@[simp] theorem setFlags_tlb (z c : Bool) : (s.setFlags z c).tlb = s.tlb := rfl
@[simp] theorem setFlags_immv (z c : Bool) : (s.setFlags z c).immv = s.immv := rfl
@[simp] theorem setFlags_imma (z c : Bool) : (s.setFlags z c).imma = s.imma := rfl
@[simp] theorem setFlags_mem (z c : Bool) : (s.setFlags z c).mem = s.mem := rfl
@[simp] theorem setFlags_stored (z c : Bool) : (s.setFlags z c).stored = s.stored := rfl
@[simp] theorem setFlags_irq (z c : Bool) : (s.setFlags z c).irq = s.irq := rfl
@[simp] theorem setFlags_deviceLog (z c : Bool) : (s.setFlags z c).deviceLog = s.deviceLog := rfl
@[simp] theorem setFlags_draws (z c : Bool) : (s.setFlags z c).draws = s.draws := rfl
@[simp] theorem setFlags_reg (z c : Bool) (q : RegNum) : (s.setFlags z c).reg q = s.reg q := rfl
@[simp] theorem setFlags_index (z c : Bool) (q : BitVec 2) : (s.setFlags z c).index q = s.index q := rfl
@[simp] theorem setFlags_fpr (z c : Bool) (q : BitVec 2) : (s.setFlags z c).fpr q = s.fpr q := rfl
@[simp] theorem setFlags_tlbEntry (z c : Bool) (q : BitVec 5) : (s.setFlags z c).tlbEntry q = s.tlbEntry q := rfl
@[simp] theorem setFlags_byteAt (z c : Bool) (q : Addr) : (s.setFlags z c).byteAt q = s.byteAt q := rfl
@[simp] theorem setFlags_npc (z c : Bool) : (s.setFlags z c).npc = s.npc := rfl

@[simp] theorem setLr_cfg (v : Long) : (s.setLr v).cfg = s.cfg := rfl
@[simp] theorem setLr_regs (v : Long) : (s.setLr v).regs = s.regs := rfl
@[simp] theorem setLr_pc (v : Long) : (s.setLr v).pc = s.pc := rfl
@[simp] theorem setLr_msr (v : Long) : (s.setLr v).msr = s.msr := rfl
@[simp] theorem setLr_lr (v : Long) : (s.setLr v).lr = v := rfl
@[simp] theorem setLr_ilr (v : Long) : (s.setLr v).ilr = s.ilr := rfl
@[simp] theorem setLr_elr (v : Long) : (s.setLr v).elr = s.elr := rfl
@[simp] theorem setLr_cc (v : Long) : (s.setLr v).cc = s.cc := rfl
@[simp] theorem setLr_vbar (v : Long) : (s.setLr v).vbar = s.vbar := rfl
@[simp] theorem setLr_ear (v : Long) : (s.setLr v).ear = s.ear := rfl
@[simp] theorem setLr_ctx (v : Long) : (s.setLr v).ctx = s.ctx := rfl
@[simp] theorem setLr_ids (v : Long) : (s.setLr v).ids = s.ids := rfl
@[simp] theorem setLr_fps (v : Long) : (s.setLr v).fps = s.fps := rfl
@[simp] theorem setLr_pid (v : Long) : (s.setLr v).pid = s.pid := rfl
@[simp] theorem setLr_tlb (v : Long) : (s.setLr v).tlb = s.tlb := rfl
@[simp] theorem setLr_immv (v : Long) : (s.setLr v).immv = s.immv := rfl
@[simp] theorem setLr_imma (v : Long) : (s.setLr v).imma = s.imma := rfl
@[simp] theorem setLr_mem (v : Long) : (s.setLr v).mem = s.mem := rfl
@[simp] theorem setLr_stored (v : Long) : (s.setLr v).stored = s.stored := rfl
@[simp] theorem setLr_irq (v : Long) : (s.setLr v).irq = s.irq := rfl
@[simp] theorem setLr_deviceLog (v : Long) : (s.setLr v).deviceLog = s.deviceLog := rfl
@[simp] theorem setLr_draws (v : Long) : (s.setLr v).draws = s.draws := rfl
@[simp] theorem setLr_reg (v : Long) (q : RegNum) : (s.setLr v).reg q = s.reg q := rfl
@[simp] theorem setLr_index (v : Long) (q : BitVec 2) : (s.setLr v).index q = s.index q := rfl
@[simp] theorem setLr_fpr (v : Long) (q : BitVec 2) : (s.setLr v).fpr q = s.fpr q := rfl
@[simp] theorem setLr_tlbEntry (v : Long) (q : BitVec 5) : (s.setLr v).tlbEntry q = s.tlbEntry q := rfl
@[simp] theorem setLr_byteAt (v : Long) (q : Addr) : (s.setLr v).byteAt q = s.byteAt q := rfl
@[simp] theorem setLr_npc (v : Long) : (s.setLr v).npc = s.npc := rfl

@[simp] theorem setIlr_cfg (v : Long) : (s.setIlr v).cfg = s.cfg := rfl
@[simp] theorem setIlr_regs (v : Long) : (s.setIlr v).regs = s.regs := rfl
@[simp] theorem setIlr_pc (v : Long) : (s.setIlr v).pc = s.pc := rfl
@[simp] theorem setIlr_msr (v : Long) : (s.setIlr v).msr = s.msr := rfl
@[simp] theorem setIlr_lr (v : Long) : (s.setIlr v).lr = s.lr := rfl
@[simp] theorem setIlr_ilr (v : Long) : (s.setIlr v).ilr = v := rfl
@[simp] theorem setIlr_elr (v : Long) : (s.setIlr v).elr = s.elr := rfl
@[simp] theorem setIlr_cc (v : Long) : (s.setIlr v).cc = s.cc := rfl
@[simp] theorem setIlr_vbar (v : Long) : (s.setIlr v).vbar = s.vbar := rfl
@[simp] theorem setIlr_ear (v : Long) : (s.setIlr v).ear = s.ear := rfl
@[simp] theorem setIlr_ctx (v : Long) : (s.setIlr v).ctx = s.ctx := rfl
@[simp] theorem setIlr_ids (v : Long) : (s.setIlr v).ids = s.ids := rfl
@[simp] theorem setIlr_fps (v : Long) : (s.setIlr v).fps = s.fps := rfl
@[simp] theorem setIlr_pid (v : Long) : (s.setIlr v).pid = s.pid := rfl
@[simp] theorem setIlr_tlb (v : Long) : (s.setIlr v).tlb = s.tlb := rfl
@[simp] theorem setIlr_immv (v : Long) : (s.setIlr v).immv = s.immv := rfl
@[simp] theorem setIlr_imma (v : Long) : (s.setIlr v).imma = s.imma := rfl
@[simp] theorem setIlr_mem (v : Long) : (s.setIlr v).mem = s.mem := rfl
@[simp] theorem setIlr_stored (v : Long) : (s.setIlr v).stored = s.stored := rfl
@[simp] theorem setIlr_irq (v : Long) : (s.setIlr v).irq = s.irq := rfl
@[simp] theorem setIlr_deviceLog (v : Long) : (s.setIlr v).deviceLog = s.deviceLog := rfl
@[simp] theorem setIlr_draws (v : Long) : (s.setIlr v).draws = s.draws := rfl
@[simp] theorem setIlr_reg (v : Long) (q : RegNum) : (s.setIlr v).reg q = s.reg q := rfl
@[simp] theorem setIlr_index (v : Long) (q : BitVec 2) : (s.setIlr v).index q = s.index q := rfl
@[simp] theorem setIlr_fpr (v : Long) (q : BitVec 2) : (s.setIlr v).fpr q = s.fpr q := rfl
@[simp] theorem setIlr_tlbEntry (v : Long) (q : BitVec 5) : (s.setIlr v).tlbEntry q = s.tlbEntry q := rfl
@[simp] theorem setIlr_byteAt (v : Long) (q : Addr) : (s.setIlr v).byteAt q = s.byteAt q := rfl
@[simp] theorem setIlr_npc (v : Long) : (s.setIlr v).npc = s.npc := rfl

@[simp] theorem setElr_cfg (v : Long) : (s.setElr v).cfg = s.cfg := rfl
@[simp] theorem setElr_regs (v : Long) : (s.setElr v).regs = s.regs := rfl
@[simp] theorem setElr_pc (v : Long) : (s.setElr v).pc = s.pc := rfl
@[simp] theorem setElr_msr (v : Long) : (s.setElr v).msr = s.msr := rfl
@[simp] theorem setElr_lr (v : Long) : (s.setElr v).lr = s.lr := rfl
@[simp] theorem setElr_ilr (v : Long) : (s.setElr v).ilr = s.ilr := rfl
@[simp] theorem setElr_elr (v : Long) : (s.setElr v).elr = v := rfl
@[simp] theorem setElr_cc (v : Long) : (s.setElr v).cc = s.cc := rfl
@[simp] theorem setElr_vbar (v : Long) : (s.setElr v).vbar = s.vbar := rfl
@[simp] theorem setElr_ear (v : Long) : (s.setElr v).ear = s.ear := rfl
@[simp] theorem setElr_ctx (v : Long) : (s.setElr v).ctx = s.ctx := rfl
@[simp] theorem setElr_ids (v : Long) : (s.setElr v).ids = s.ids := rfl
@[simp] theorem setElr_fps (v : Long) : (s.setElr v).fps = s.fps := rfl
@[simp] theorem setElr_pid (v : Long) : (s.setElr v).pid = s.pid := rfl
@[simp] theorem setElr_tlb (v : Long) : (s.setElr v).tlb = s.tlb := rfl
@[simp] theorem setElr_immv (v : Long) : (s.setElr v).immv = s.immv := rfl
@[simp] theorem setElr_imma (v : Long) : (s.setElr v).imma = s.imma := rfl
@[simp] theorem setElr_mem (v : Long) : (s.setElr v).mem = s.mem := rfl
@[simp] theorem setElr_stored (v : Long) : (s.setElr v).stored = s.stored := rfl
@[simp] theorem setElr_irq (v : Long) : (s.setElr v).irq = s.irq := rfl
@[simp] theorem setElr_deviceLog (v : Long) : (s.setElr v).deviceLog = s.deviceLog := rfl
@[simp] theorem setElr_draws (v : Long) : (s.setElr v).draws = s.draws := rfl
@[simp] theorem setElr_reg (v : Long) (q : RegNum) : (s.setElr v).reg q = s.reg q := rfl
@[simp] theorem setElr_index (v : Long) (q : BitVec 2) : (s.setElr v).index q = s.index q := rfl
@[simp] theorem setElr_fpr (v : Long) (q : BitVec 2) : (s.setElr v).fpr q = s.fpr q := rfl
@[simp] theorem setElr_tlbEntry (v : Long) (q : BitVec 5) : (s.setElr v).tlbEntry q = s.tlbEntry q := rfl
@[simp] theorem setElr_byteAt (v : Long) (q : Addr) : (s.setElr v).byteAt q = s.byteAt q := rfl
@[simp] theorem setElr_npc (v : Long) : (s.setElr v).npc = s.npc := rfl

@[simp] theorem setCc_cfg (v : Long) : (s.setCc v).cfg = s.cfg := rfl
@[simp] theorem setCc_regs (v : Long) : (s.setCc v).regs = s.regs := rfl
@[simp] theorem setCc_pc (v : Long) : (s.setCc v).pc = s.pc := rfl
@[simp] theorem setCc_msr (v : Long) : (s.setCc v).msr = s.msr := rfl
@[simp] theorem setCc_lr (v : Long) : (s.setCc v).lr = s.lr := rfl
@[simp] theorem setCc_ilr (v : Long) : (s.setCc v).ilr = s.ilr := rfl
@[simp] theorem setCc_elr (v : Long) : (s.setCc v).elr = s.elr := rfl
@[simp] theorem setCc_cc (v : Long) : (s.setCc v).cc = v := rfl
@[simp] theorem setCc_vbar (v : Long) : (s.setCc v).vbar = s.vbar := rfl
@[simp] theorem setCc_ear (v : Long) : (s.setCc v).ear = s.ear := rfl
@[simp] theorem setCc_ctx (v : Long) : (s.setCc v).ctx = s.ctx := rfl
@[simp] theorem setCc_ids (v : Long) : (s.setCc v).ids = s.ids := rfl
@[simp] theorem setCc_fps (v : Long) : (s.setCc v).fps = s.fps := rfl
@[simp] theorem setCc_pid (v : Long) : (s.setCc v).pid = s.pid := rfl
@[simp] theorem setCc_tlb (v : Long) : (s.setCc v).tlb = s.tlb := rfl
@[simp] theorem setCc_immv (v : Long) : (s.setCc v).immv = s.immv := rfl
@[simp] theorem setCc_imma (v : Long) : (s.setCc v).imma = s.imma := rfl
@[simp] theorem setCc_mem (v : Long) : (s.setCc v).mem = s.mem := rfl
@[simp] theorem setCc_stored (v : Long) : (s.setCc v).stored = s.stored := rfl
@[simp] theorem setCc_irq (v : Long) : (s.setCc v).irq = s.irq := rfl
@[simp] theorem setCc_deviceLog (v : Long) : (s.setCc v).deviceLog = s.deviceLog := rfl
@[simp] theorem setCc_draws (v : Long) : (s.setCc v).draws = s.draws := rfl
@[simp] theorem setCc_reg (v : Long) (q : RegNum) : (s.setCc v).reg q = s.reg q := rfl
@[simp] theorem setCc_index (v : Long) (q : BitVec 2) : (s.setCc v).index q = s.index q := rfl
@[simp] theorem setCc_fpr (v : Long) (q : BitVec 2) : (s.setCc v).fpr q = s.fpr q := rfl
@[simp] theorem setCc_tlbEntry (v : Long) (q : BitVec 5) : (s.setCc v).tlbEntry q = s.tlbEntry q := rfl
@[simp] theorem setCc_byteAt (v : Long) (q : Addr) : (s.setCc v).byteAt q = s.byteAt q := rfl
@[simp] theorem setCc_npc (v : Long) : (s.setCc v).npc = s.npc := rfl

@[simp] theorem setVbar_cfg (v : BitVec 23) : (s.setVbar v).cfg = s.cfg := rfl
@[simp] theorem setVbar_regs (v : BitVec 23) : (s.setVbar v).regs = s.regs := rfl
@[simp] theorem setVbar_pc (v : BitVec 23) : (s.setVbar v).pc = s.pc := rfl
@[simp] theorem setVbar_msr (v : BitVec 23) : (s.setVbar v).msr = s.msr := rfl
@[simp] theorem setVbar_lr (v : BitVec 23) : (s.setVbar v).lr = s.lr := rfl
@[simp] theorem setVbar_ilr (v : BitVec 23) : (s.setVbar v).ilr = s.ilr := rfl
@[simp] theorem setVbar_elr (v : BitVec 23) : (s.setVbar v).elr = s.elr := rfl
@[simp] theorem setVbar_cc (v : BitVec 23) : (s.setVbar v).cc = s.cc := rfl
@[simp] theorem setVbar_vbar (v : BitVec 23) : (s.setVbar v).vbar = v := rfl
@[simp] theorem setVbar_ear (v : BitVec 23) : (s.setVbar v).ear = s.ear := rfl
@[simp] theorem setVbar_ctx (v : BitVec 23) : (s.setVbar v).ctx = s.ctx := rfl
@[simp] theorem setVbar_ids (v : BitVec 23) : (s.setVbar v).ids = s.ids := rfl
@[simp] theorem setVbar_fps (v : BitVec 23) : (s.setVbar v).fps = s.fps := rfl
@[simp] theorem setVbar_pid (v : BitVec 23) : (s.setVbar v).pid = s.pid := rfl
@[simp] theorem setVbar_tlb (v : BitVec 23) : (s.setVbar v).tlb = s.tlb := rfl
@[simp] theorem setVbar_immv (v : BitVec 23) : (s.setVbar v).immv = s.immv := rfl
@[simp] theorem setVbar_imma (v : BitVec 23) : (s.setVbar v).imma = s.imma := rfl
@[simp] theorem setVbar_mem (v : BitVec 23) : (s.setVbar v).mem = s.mem := rfl
@[simp] theorem setVbar_stored (v : BitVec 23) : (s.setVbar v).stored = s.stored := rfl
@[simp] theorem setVbar_irq (v : BitVec 23) : (s.setVbar v).irq = s.irq := rfl
@[simp] theorem setVbar_deviceLog (v : BitVec 23) : (s.setVbar v).deviceLog = s.deviceLog := rfl
@[simp] theorem setVbar_draws (v : BitVec 23) : (s.setVbar v).draws = s.draws := rfl
@[simp] theorem setVbar_reg (v : BitVec 23) (q : RegNum) : (s.setVbar v).reg q = s.reg q := rfl
@[simp] theorem setVbar_index (v : BitVec 23) (q : BitVec 2) : (s.setVbar v).index q = s.index q := rfl
@[simp] theorem setVbar_fpr (v : BitVec 23) (q : BitVec 2) : (s.setVbar v).fpr q = s.fpr q := rfl
@[simp] theorem setVbar_tlbEntry (v : BitVec 23) (q : BitVec 5) : (s.setVbar v).tlbEntry q = s.tlbEntry q := rfl
@[simp] theorem setVbar_byteAt (v : BitVec 23) (q : Addr) : (s.setVbar v).byteAt q = s.byteAt q := rfl
@[simp] theorem setVbar_npc (v : BitVec 23) : (s.setVbar v).npc = s.npc := rfl

@[simp] theorem setEar_cfg (v : Long) : (s.setEar v).cfg = s.cfg := rfl
@[simp] theorem setEar_regs (v : Long) : (s.setEar v).regs = s.regs := rfl
@[simp] theorem setEar_pc (v : Long) : (s.setEar v).pc = s.pc := rfl
@[simp] theorem setEar_msr (v : Long) : (s.setEar v).msr = s.msr := rfl
@[simp] theorem setEar_lr (v : Long) : (s.setEar v).lr = s.lr := rfl
@[simp] theorem setEar_ilr (v : Long) : (s.setEar v).ilr = s.ilr := rfl
@[simp] theorem setEar_elr (v : Long) : (s.setEar v).elr = s.elr := rfl
@[simp] theorem setEar_cc (v : Long) : (s.setEar v).cc = s.cc := rfl
@[simp] theorem setEar_vbar (v : Long) : (s.setEar v).vbar = s.vbar := rfl
@[simp] theorem setEar_ear (v : Long) : (s.setEar v).ear = v := rfl
@[simp] theorem setEar_ctx (v : Long) : (s.setEar v).ctx = s.ctx := rfl
@[simp] theorem setEar_ids (v : Long) : (s.setEar v).ids = s.ids := rfl
@[simp] theorem setEar_fps (v : Long) : (s.setEar v).fps = s.fps := rfl
@[simp] theorem setEar_pid (v : Long) : (s.setEar v).pid = s.pid := rfl
@[simp] theorem setEar_tlb (v : Long) : (s.setEar v).tlb = s.tlb := rfl
@[simp] theorem setEar_immv (v : Long) : (s.setEar v).immv = s.immv := rfl
@[simp] theorem setEar_imma (v : Long) : (s.setEar v).imma = s.imma := rfl
@[simp] theorem setEar_mem (v : Long) : (s.setEar v).mem = s.mem := rfl
@[simp] theorem setEar_stored (v : Long) : (s.setEar v).stored = s.stored := rfl
@[simp] theorem setEar_irq (v : Long) : (s.setEar v).irq = s.irq := rfl
@[simp] theorem setEar_deviceLog (v : Long) : (s.setEar v).deviceLog = s.deviceLog := rfl
@[simp] theorem setEar_draws (v : Long) : (s.setEar v).draws = s.draws := rfl
@[simp] theorem setEar_reg (v : Long) (q : RegNum) : (s.setEar v).reg q = s.reg q := rfl
@[simp] theorem setEar_index (v : Long) (q : BitVec 2) : (s.setEar v).index q = s.index q := rfl
@[simp] theorem setEar_fpr (v : Long) (q : BitVec 2) : (s.setEar v).fpr q = s.fpr q := rfl
@[simp] theorem setEar_tlbEntry (v : Long) (q : BitVec 5) : (s.setEar v).tlbEntry q = s.tlbEntry q := rfl
@[simp] theorem setEar_byteAt (v : Long) (q : Addr) : (s.setEar v).byteAt q = s.byteAt q := rfl
@[simp] theorem setEar_npc (v : Long) : (s.setEar v).npc = s.npc := rfl

@[simp] theorem setCtx_cfg (v : Long) : (s.setCtx v).cfg = s.cfg := rfl
@[simp] theorem setCtx_regs (v : Long) : (s.setCtx v).regs = s.regs := rfl
@[simp] theorem setCtx_pc (v : Long) : (s.setCtx v).pc = s.pc := rfl
@[simp] theorem setCtx_msr (v : Long) : (s.setCtx v).msr = s.msr := rfl
@[simp] theorem setCtx_lr (v : Long) : (s.setCtx v).lr = s.lr := rfl
@[simp] theorem setCtx_ilr (v : Long) : (s.setCtx v).ilr = s.ilr := rfl
@[simp] theorem setCtx_elr (v : Long) : (s.setCtx v).elr = s.elr := rfl
@[simp] theorem setCtx_cc (v : Long) : (s.setCtx v).cc = s.cc := rfl
@[simp] theorem setCtx_vbar (v : Long) : (s.setCtx v).vbar = s.vbar := rfl
@[simp] theorem setCtx_ear (v : Long) : (s.setCtx v).ear = s.ear := rfl
@[simp] theorem setCtx_ctx (v : Long) : (s.setCtx v).ctx = v := rfl
@[simp] theorem setCtx_ids (v : Long) : (s.setCtx v).ids = s.ids := rfl
@[simp] theorem setCtx_fps (v : Long) : (s.setCtx v).fps = s.fps := rfl
@[simp] theorem setCtx_pid (v : Long) : (s.setCtx v).pid = s.pid := rfl
@[simp] theorem setCtx_tlb (v : Long) : (s.setCtx v).tlb = s.tlb := rfl
@[simp] theorem setCtx_immv (v : Long) : (s.setCtx v).immv = s.immv := rfl
@[simp] theorem setCtx_imma (v : Long) : (s.setCtx v).imma = s.imma := rfl
@[simp] theorem setCtx_mem (v : Long) : (s.setCtx v).mem = s.mem := rfl
@[simp] theorem setCtx_stored (v : Long) : (s.setCtx v).stored = s.stored := rfl
@[simp] theorem setCtx_irq (v : Long) : (s.setCtx v).irq = s.irq := rfl
@[simp] theorem setCtx_deviceLog (v : Long) : (s.setCtx v).deviceLog = s.deviceLog := rfl
@[simp] theorem setCtx_draws (v : Long) : (s.setCtx v).draws = s.draws := rfl
@[simp] theorem setCtx_reg (v : Long) (q : RegNum) : (s.setCtx v).reg q = s.reg q := rfl
@[simp] theorem setCtx_index (v : Long) (q : BitVec 2) : (s.setCtx v).index q = s.index q := rfl
@[simp] theorem setCtx_fpr (v : Long) (q : BitVec 2) : (s.setCtx v).fpr q = s.fpr q := rfl
@[simp] theorem setCtx_tlbEntry (v : Long) (q : BitVec 5) : (s.setCtx v).tlbEntry q = s.tlbEntry q := rfl
@[simp] theorem setCtx_byteAt (v : Long) (q : Addr) : (s.setCtx v).byteAt q = s.byteAt q := rfl
@[simp] theorem setCtx_npc (v : Long) : (s.setCtx v).npc = s.npc := rfl

@[simp] theorem setLatch_cfg (a : BitVec 14) : (s.setLatch a).cfg = s.cfg := rfl
@[simp] theorem setLatch_regs (a : BitVec 14) : (s.setLatch a).regs = s.regs := rfl
@[simp] theorem setLatch_pc (a : BitVec 14) : (s.setLatch a).pc = s.pc := rfl
@[simp] theorem setLatch_msr (a : BitVec 14) : (s.setLatch a).msr = s.msr := rfl
@[simp] theorem setLatch_lr (a : BitVec 14) : (s.setLatch a).lr = s.lr := rfl
@[simp] theorem setLatch_ilr (a : BitVec 14) : (s.setLatch a).ilr = s.ilr := rfl
@[simp] theorem setLatch_elr (a : BitVec 14) : (s.setLatch a).elr = s.elr := rfl
@[simp] theorem setLatch_cc (a : BitVec 14) : (s.setLatch a).cc = s.cc := rfl
@[simp] theorem setLatch_vbar (a : BitVec 14) : (s.setLatch a).vbar = s.vbar := rfl
@[simp] theorem setLatch_ear (a : BitVec 14) : (s.setLatch a).ear = s.ear := rfl
@[simp] theorem setLatch_ctx (a : BitVec 14) : (s.setLatch a).ctx = s.ctx := rfl
@[simp] theorem setLatch_ids (a : BitVec 14) : (s.setLatch a).ids = s.ids := rfl
@[simp] theorem setLatch_fps (a : BitVec 14) : (s.setLatch a).fps = s.fps := rfl
@[simp] theorem setLatch_pid (a : BitVec 14) : (s.setLatch a).pid = s.pid := rfl
@[simp] theorem setLatch_tlb (a : BitVec 14) : (s.setLatch a).tlb = s.tlb := rfl
@[simp] theorem setLatch_immv (a : BitVec 14) : (s.setLatch a).immv = true := rfl
@[simp] theorem setLatch_imma (a : BitVec 14) : (s.setLatch a).imma = a := rfl
@[simp] theorem setLatch_mem (a : BitVec 14) : (s.setLatch a).mem = s.mem := rfl
@[simp] theorem setLatch_stored (a : BitVec 14) : (s.setLatch a).stored = s.stored := rfl
@[simp] theorem setLatch_irq (a : BitVec 14) : (s.setLatch a).irq = s.irq := rfl
@[simp] theorem setLatch_deviceLog (a : BitVec 14) : (s.setLatch a).deviceLog = s.deviceLog := rfl
@[simp] theorem setLatch_draws (a : BitVec 14) : (s.setLatch a).draws = s.draws := rfl
@[simp] theorem setLatch_reg (a : BitVec 14) (q : RegNum) : (s.setLatch a).reg q = s.reg q := rfl
@[simp] theorem setLatch_index (a : BitVec 14) (q : BitVec 2) : (s.setLatch a).index q = s.index q := rfl
@[simp] theorem setLatch_fpr (a : BitVec 14) (q : BitVec 2) : (s.setLatch a).fpr q = s.fpr q := rfl
@[simp] theorem setLatch_tlbEntry (a : BitVec 14) (q : BitVec 5) : (s.setLatch a).tlbEntry q = s.tlbEntry q := rfl
@[simp] theorem setLatch_byteAt (a : BitVec 14) (q : Addr) : (s.setLatch a).byteAt q = s.byteAt q := rfl
@[simp] theorem setLatch_npc (a : BitVec 14) : (s.setLatch a).npc = s.npc := rfl

@[simp] theorem dropLatch_cfg : s.dropLatch.cfg = s.cfg := rfl
@[simp] theorem dropLatch_regs : s.dropLatch.regs = s.regs := rfl
@[simp] theorem dropLatch_pc : s.dropLatch.pc = s.pc := rfl
@[simp] theorem dropLatch_msr : s.dropLatch.msr = s.msr := rfl
@[simp] theorem dropLatch_lr : s.dropLatch.lr = s.lr := rfl
@[simp] theorem dropLatch_ilr : s.dropLatch.ilr = s.ilr := rfl
@[simp] theorem dropLatch_elr : s.dropLatch.elr = s.elr := rfl
@[simp] theorem dropLatch_cc : s.dropLatch.cc = s.cc := rfl
@[simp] theorem dropLatch_vbar : s.dropLatch.vbar = s.vbar := rfl
@[simp] theorem dropLatch_ear : s.dropLatch.ear = s.ear := rfl
@[simp] theorem dropLatch_ctx : s.dropLatch.ctx = s.ctx := rfl
@[simp] theorem dropLatch_ids : s.dropLatch.ids = s.ids := rfl
@[simp] theorem dropLatch_fps : s.dropLatch.fps = s.fps := rfl
@[simp] theorem dropLatch_pid : s.dropLatch.pid = s.pid := rfl
@[simp] theorem dropLatch_tlb : s.dropLatch.tlb = s.tlb := rfl
@[simp] theorem dropLatch_immv : s.dropLatch.immv = false := rfl
@[simp] theorem dropLatch_imma : s.dropLatch.imma = s.imma := rfl
@[simp] theorem dropLatch_mem : s.dropLatch.mem = s.mem := rfl
@[simp] theorem dropLatch_stored : s.dropLatch.stored = s.stored := rfl
@[simp] theorem dropLatch_irq : s.dropLatch.irq = s.irq := rfl
@[simp] theorem dropLatch_deviceLog : s.dropLatch.deviceLog = s.deviceLog := rfl
@[simp] theorem dropLatch_draws : s.dropLatch.draws = s.draws := rfl
@[simp] theorem dropLatch_reg (q : RegNum) : s.dropLatch.reg q = s.reg q := rfl
@[simp] theorem dropLatch_index (q : BitVec 2) : s.dropLatch.index q = s.index q := rfl
@[simp] theorem dropLatch_fpr (q : BitVec 2) : s.dropLatch.fpr q = s.fpr q := rfl
@[simp] theorem dropLatch_tlbEntry (q : BitVec 5) : s.dropLatch.tlbEntry q = s.tlbEntry q := rfl
@[simp] theorem dropLatch_byteAt (q : Addr) : s.dropLatch.byteAt q = s.byteAt q := rfl
@[simp] theorem dropLatch_npc : s.dropLatch.npc = s.npc := rfl

@[simp] theorem tick_cfg : s.tick.cfg = s.cfg := rfl
@[simp] theorem tick_regs : s.tick.regs = s.regs := rfl
@[simp] theorem tick_pc : s.tick.pc = s.pc := rfl
@[simp] theorem tick_msr : s.tick.msr = s.msr := rfl
@[simp] theorem tick_lr : s.tick.lr = s.lr := rfl
@[simp] theorem tick_ilr : s.tick.ilr = s.ilr := rfl
@[simp] theorem tick_elr : s.tick.elr = s.elr := rfl
@[simp] theorem tick_cc : s.tick.cc = s.cc := rfl
@[simp] theorem tick_vbar : s.tick.vbar = s.vbar := rfl
@[simp] theorem tick_ear : s.tick.ear = s.ear := rfl
@[simp] theorem tick_ctx : s.tick.ctx = s.ctx := rfl
@[simp] theorem tick_ids : s.tick.ids = s.ids := rfl
@[simp] theorem tick_fps : s.tick.fps = s.fps := rfl
@[simp] theorem tick_pid : s.tick.pid = s.pid := rfl
@[simp] theorem tick_tlb : s.tick.tlb = s.tlb := rfl
@[simp] theorem tick_immv : s.tick.immv = s.immv := rfl
@[simp] theorem tick_imma : s.tick.imma = s.imma := rfl
@[simp] theorem tick_mem : s.tick.mem = s.mem := rfl
@[simp] theorem tick_stored : s.tick.stored = s.stored := rfl
@[simp] theorem tick_irq : s.tick.irq = s.irq := rfl
@[simp] theorem tick_deviceLog : s.tick.deviceLog = s.deviceLog := rfl
@[simp] theorem tick_draws : s.tick.draws = s.draws + 1 := rfl
@[simp] theorem tick_reg (q : RegNum) : s.tick.reg q = s.reg q := rfl
@[simp] theorem tick_index (q : BitVec 2) : s.tick.index q = s.index q := rfl
@[simp] theorem tick_fpr (q : BitVec 2) : s.tick.fpr q = s.fpr q := rfl
@[simp] theorem tick_tlbEntry (q : BitVec 5) : s.tick.tlbEntry q = s.tlbEntry q := rfl
@[simp] theorem tick_byteAt (q : Addr) : s.tick.byteAt q = s.byteAt q := rfl
@[simp] theorem tick_npc : s.tick.npc = s.npc := rfl

@[simp] theorem tell_cfg (x : DeviceAccess) : (s.tell x).cfg = s.cfg := rfl
@[simp] theorem tell_regs (x : DeviceAccess) : (s.tell x).regs = s.regs := rfl
@[simp] theorem tell_pc (x : DeviceAccess) : (s.tell x).pc = s.pc := rfl
@[simp] theorem tell_msr (x : DeviceAccess) : (s.tell x).msr = s.msr := rfl
@[simp] theorem tell_lr (x : DeviceAccess) : (s.tell x).lr = s.lr := rfl
@[simp] theorem tell_ilr (x : DeviceAccess) : (s.tell x).ilr = s.ilr := rfl
@[simp] theorem tell_elr (x : DeviceAccess) : (s.tell x).elr = s.elr := rfl
@[simp] theorem tell_cc (x : DeviceAccess) : (s.tell x).cc = s.cc := rfl
@[simp] theorem tell_vbar (x : DeviceAccess) : (s.tell x).vbar = s.vbar := rfl
@[simp] theorem tell_ear (x : DeviceAccess) : (s.tell x).ear = s.ear := rfl
@[simp] theorem tell_ctx (x : DeviceAccess) : (s.tell x).ctx = s.ctx := rfl
@[simp] theorem tell_ids (x : DeviceAccess) : (s.tell x).ids = s.ids := rfl
@[simp] theorem tell_fps (x : DeviceAccess) : (s.tell x).fps = s.fps := rfl
@[simp] theorem tell_pid (x : DeviceAccess) : (s.tell x).pid = s.pid := rfl
@[simp] theorem tell_tlb (x : DeviceAccess) : (s.tell x).tlb = s.tlb := rfl
@[simp] theorem tell_immv (x : DeviceAccess) : (s.tell x).immv = s.immv := rfl
@[simp] theorem tell_imma (x : DeviceAccess) : (s.tell x).imma = s.imma := rfl
@[simp] theorem tell_mem (x : DeviceAccess) : (s.tell x).mem = s.mem := rfl
@[simp] theorem tell_stored (x : DeviceAccess) : (s.tell x).stored = s.stored := rfl
@[simp] theorem tell_irq (x : DeviceAccess) : (s.tell x).irq = s.irq := rfl
@[simp] theorem tell_deviceLog (x : DeviceAccess) : (s.tell x).deviceLog = x :: s.deviceLog := rfl
@[simp] theorem tell_draws (x : DeviceAccess) : (s.tell x).draws = s.draws := rfl
@[simp] theorem tell_reg (x : DeviceAccess) (q : RegNum) : (s.tell x).reg q = s.reg q := rfl
@[simp] theorem tell_index (x : DeviceAccess) (q : BitVec 2) : (s.tell x).index q = s.index q := rfl
@[simp] theorem tell_fpr (x : DeviceAccess) (q : BitVec 2) : (s.tell x).fpr q = s.fpr q := rfl
@[simp] theorem tell_tlbEntry (x : DeviceAccess) (q : BitVec 5) : (s.tell x).tlbEntry q = s.tlbEntry q := rfl
@[simp] theorem tell_byteAt (x : DeviceAccess) (q : Addr) : (s.tell x).byteAt q = s.byteAt q := rfl
@[simp] theorem tell_npc (x : DeviceAccess) : (s.tell x).npc = s.npc := rfl

@[simp] theorem popIrq_cfg : s.popIrq.cfg = s.cfg := rfl
@[simp] theorem popIrq_regs : s.popIrq.regs = s.regs := rfl
@[simp] theorem popIrq_pc : s.popIrq.pc = s.pc := rfl
@[simp] theorem popIrq_msr : s.popIrq.msr = s.msr := rfl
@[simp] theorem popIrq_lr : s.popIrq.lr = s.lr := rfl
@[simp] theorem popIrq_ilr : s.popIrq.ilr = s.ilr := rfl
@[simp] theorem popIrq_elr : s.popIrq.elr = s.elr := rfl
@[simp] theorem popIrq_cc : s.popIrq.cc = s.cc := rfl
@[simp] theorem popIrq_vbar : s.popIrq.vbar = s.vbar := rfl
@[simp] theorem popIrq_ear : s.popIrq.ear = s.ear := rfl
@[simp] theorem popIrq_ctx : s.popIrq.ctx = s.ctx := rfl
@[simp] theorem popIrq_ids : s.popIrq.ids = s.ids := rfl
@[simp] theorem popIrq_fps : s.popIrq.fps = s.fps := rfl
@[simp] theorem popIrq_pid : s.popIrq.pid = s.pid := rfl
@[simp] theorem popIrq_tlb : s.popIrq.tlb = s.tlb := rfl
@[simp] theorem popIrq_immv : s.popIrq.immv = s.immv := rfl
@[simp] theorem popIrq_imma : s.popIrq.imma = s.imma := rfl
@[simp] theorem popIrq_mem : s.popIrq.mem = s.mem := rfl
@[simp] theorem popIrq_stored : s.popIrq.stored = s.stored := rfl
@[simp] theorem popIrq_irq : s.popIrq.irq = s.irq.tail := rfl
@[simp] theorem popIrq_deviceLog : s.popIrq.deviceLog = s.deviceLog := rfl
@[simp] theorem popIrq_draws : s.popIrq.draws = s.draws := rfl
@[simp] theorem popIrq_reg (q : RegNum) : s.popIrq.reg q = s.reg q := rfl
@[simp] theorem popIrq_index (q : BitVec 2) : s.popIrq.index q = s.index q := rfl
@[simp] theorem popIrq_fpr (q : BitVec 2) : s.popIrq.fpr q = s.fpr q := rfl
@[simp] theorem popIrq_tlbEntry (q : BitVec 5) : s.popIrq.tlbEntry q = s.tlbEntry q := rfl
@[simp] theorem popIrq_byteAt (q : Addr) : s.popIrq.byteAt q = s.byteAt q := rfl
@[simp] theorem popIrq_npc : s.popIrq.npc = s.npc := rfl

@[simp] theorem sendWord_cfg (a : Addr) (v : Word) : (s.sendWord a v).cfg = s.cfg := rfl
@[simp] theorem sendWord_regs (a : Addr) (v : Word) : (s.sendWord a v).regs = s.regs := rfl
@[simp] theorem sendWord_pc (a : Addr) (v : Word) : (s.sendWord a v).pc = s.pc := rfl
@[simp] theorem sendWord_msr (a : Addr) (v : Word) : (s.sendWord a v).msr = s.msr := rfl
@[simp] theorem sendWord_lr (a : Addr) (v : Word) : (s.sendWord a v).lr = s.lr := rfl
@[simp] theorem sendWord_ilr (a : Addr) (v : Word) : (s.sendWord a v).ilr = s.ilr := rfl
@[simp] theorem sendWord_elr (a : Addr) (v : Word) : (s.sendWord a v).elr = s.elr := rfl
@[simp] theorem sendWord_cc (a : Addr) (v : Word) : (s.sendWord a v).cc = s.cc := rfl
@[simp] theorem sendWord_vbar (a : Addr) (v : Word) : (s.sendWord a v).vbar = s.vbar := rfl
@[simp] theorem sendWord_ear (a : Addr) (v : Word) : (s.sendWord a v).ear = s.ear := rfl
@[simp] theorem sendWord_ctx (a : Addr) (v : Word) : (s.sendWord a v).ctx = s.ctx := rfl
@[simp] theorem sendWord_ids (a : Addr) (v : Word) : (s.sendWord a v).ids = s.ids := rfl
@[simp] theorem sendWord_fps (a : Addr) (v : Word) : (s.sendWord a v).fps = s.fps := rfl
@[simp] theorem sendWord_pid (a : Addr) (v : Word) : (s.sendWord a v).pid = s.pid := rfl
@[simp] theorem sendWord_tlb (a : Addr) (v : Word) : (s.sendWord a v).tlb = s.tlb := rfl
@[simp] theorem sendWord_immv (a : Addr) (v : Word) : (s.sendWord a v).immv = s.immv := rfl
@[simp] theorem sendWord_imma (a : Addr) (v : Word) : (s.sendWord a v).imma = s.imma := rfl
@[simp] theorem sendWord_mem (a : Addr) (v : Word) : (s.sendWord a v).mem = s.mem := rfl
@[simp] theorem sendWord_stored (a : Addr) (v : Word) : (s.sendWord a v).stored = markAddr (markAddr s.stored a.toNat) (a + 1#24).toNat := rfl
@[simp] theorem sendWord_irq (a : Addr) (v : Word) : (s.sendWord a v).irq = s.irq := rfl
@[simp] theorem sendWord_deviceLog (a : Addr) (v : Word) : (s.sendWord a v).deviceLog = .write .writeWord a v :: s.deviceLog := rfl
@[simp] theorem sendWord_draws (a : Addr) (v : Word) : (s.sendWord a v).draws = s.draws := rfl
@[simp] theorem sendWord_reg (a : Addr) (v : Word) (q : RegNum) : (s.sendWord a v).reg q = s.reg q := rfl
@[simp] theorem sendWord_index (a : Addr) (v : Word) (q : BitVec 2) : (s.sendWord a v).index q = s.index q := rfl
@[simp] theorem sendWord_fpr (a : Addr) (v : Word) (q : BitVec 2) : (s.sendWord a v).fpr q = s.fpr q := rfl
@[simp] theorem sendWord_tlbEntry (a : Addr) (v : Word) (q : BitVec 5) : (s.sendWord a v).tlbEntry q = s.tlbEntry q := rfl
@[simp] theorem sendWord_byteAt (a : Addr) (v : Word) (q : Addr) : (s.sendWord a v).byteAt q = s.byteAt q := rfl
@[simp] theorem sendWord_npc (a : Addr) (v : Word) : (s.sendWord a v).npc = s.npc := rfl

@[simp] theorem sendByte_cfg (a : Addr) (v : Byte) : (s.sendByte a v).cfg = s.cfg := rfl
@[simp] theorem sendByte_regs (a : Addr) (v : Byte) : (s.sendByte a v).regs = s.regs := rfl
@[simp] theorem sendByte_pc (a : Addr) (v : Byte) : (s.sendByte a v).pc = s.pc := rfl
@[simp] theorem sendByte_msr (a : Addr) (v : Byte) : (s.sendByte a v).msr = s.msr := rfl
@[simp] theorem sendByte_lr (a : Addr) (v : Byte) : (s.sendByte a v).lr = s.lr := rfl
@[simp] theorem sendByte_ilr (a : Addr) (v : Byte) : (s.sendByte a v).ilr = s.ilr := rfl
@[simp] theorem sendByte_elr (a : Addr) (v : Byte) : (s.sendByte a v).elr = s.elr := rfl
@[simp] theorem sendByte_cc (a : Addr) (v : Byte) : (s.sendByte a v).cc = s.cc := rfl
@[simp] theorem sendByte_vbar (a : Addr) (v : Byte) : (s.sendByte a v).vbar = s.vbar := rfl
@[simp] theorem sendByte_ear (a : Addr) (v : Byte) : (s.sendByte a v).ear = s.ear := rfl
@[simp] theorem sendByte_ctx (a : Addr) (v : Byte) : (s.sendByte a v).ctx = s.ctx := rfl
@[simp] theorem sendByte_ids (a : Addr) (v : Byte) : (s.sendByte a v).ids = s.ids := rfl
@[simp] theorem sendByte_fps (a : Addr) (v : Byte) : (s.sendByte a v).fps = s.fps := rfl
@[simp] theorem sendByte_pid (a : Addr) (v : Byte) : (s.sendByte a v).pid = s.pid := rfl
@[simp] theorem sendByte_tlb (a : Addr) (v : Byte) : (s.sendByte a v).tlb = s.tlb := rfl
@[simp] theorem sendByte_immv (a : Addr) (v : Byte) : (s.sendByte a v).immv = s.immv := rfl
@[simp] theorem sendByte_imma (a : Addr) (v : Byte) : (s.sendByte a v).imma = s.imma := rfl
@[simp] theorem sendByte_mem (a : Addr) (v : Byte) : (s.sendByte a v).mem = s.mem := rfl
@[simp] theorem sendByte_stored (a : Addr) (v : Byte) : (s.sendByte a v).stored = markAddr s.stored a.toNat := rfl
@[simp] theorem sendByte_irq (a : Addr) (v : Byte) : (s.sendByte a v).irq = s.irq := rfl
@[simp] theorem sendByte_deviceLog (a : Addr) (v : Byte) : (s.sendByte a v).deviceLog = .write .writeByte a (v.setWidth 16) :: s.deviceLog := rfl
@[simp] theorem sendByte_draws (a : Addr) (v : Byte) : (s.sendByte a v).draws = s.draws := rfl
@[simp] theorem sendByte_reg (a : Addr) (v : Byte) (q : RegNum) : (s.sendByte a v).reg q = s.reg q := rfl
@[simp] theorem sendByte_index (a : Addr) (v : Byte) (q : BitVec 2) : (s.sendByte a v).index q = s.index q := rfl
@[simp] theorem sendByte_fpr (a : Addr) (v : Byte) (q : BitVec 2) : (s.sendByte a v).fpr q = s.fpr q := rfl
@[simp] theorem sendByte_tlbEntry (a : Addr) (v : Byte) (q : BitVec 5) : (s.sendByte a v).tlbEntry q = s.tlbEntry q := rfl
@[simp] theorem sendByte_byteAt (a : Addr) (v : Byte) (q : Addr) : (s.sendByte a v).byteAt q = s.byteAt q := rfl
@[simp] theorem sendByte_npc (a : Addr) (v : Byte) : (s.sendByte a v).npc = s.npc := rfl

@[simp] theorem putByte_cfg (a : Addr) (v : Byte) : (s.putByte a v).cfg = s.cfg := rfl
@[simp] theorem putByte_regs (a : Addr) (v : Byte) : (s.putByte a v).regs = s.regs := rfl
@[simp] theorem putByte_pc (a : Addr) (v : Byte) : (s.putByte a v).pc = s.pc := rfl
@[simp] theorem putByte_msr (a : Addr) (v : Byte) : (s.putByte a v).msr = s.msr := rfl
@[simp] theorem putByte_lr (a : Addr) (v : Byte) : (s.putByte a v).lr = s.lr := rfl
@[simp] theorem putByte_ilr (a : Addr) (v : Byte) : (s.putByte a v).ilr = s.ilr := rfl
@[simp] theorem putByte_elr (a : Addr) (v : Byte) : (s.putByte a v).elr = s.elr := rfl
@[simp] theorem putByte_cc (a : Addr) (v : Byte) : (s.putByte a v).cc = s.cc := rfl
@[simp] theorem putByte_vbar (a : Addr) (v : Byte) : (s.putByte a v).vbar = s.vbar := rfl
@[simp] theorem putByte_ear (a : Addr) (v : Byte) : (s.putByte a v).ear = s.ear := rfl
@[simp] theorem putByte_ctx (a : Addr) (v : Byte) : (s.putByte a v).ctx = s.ctx := rfl
@[simp] theorem putByte_ids (a : Addr) (v : Byte) : (s.putByte a v).ids = s.ids := rfl
@[simp] theorem putByte_fps (a : Addr) (v : Byte) : (s.putByte a v).fps = s.fps := rfl
@[simp] theorem putByte_pid (a : Addr) (v : Byte) : (s.putByte a v).pid = s.pid := rfl
@[simp] theorem putByte_tlb (a : Addr) (v : Byte) : (s.putByte a v).tlb = s.tlb := rfl
@[simp] theorem putByte_immv (a : Addr) (v : Byte) : (s.putByte a v).immv = s.immv := rfl
@[simp] theorem putByte_imma (a : Addr) (v : Byte) : (s.putByte a v).imma = s.imma := rfl
@[simp] theorem putByte_mem (a : Addr) (v : Byte) : (s.putByte a v).mem = s.mem.write a.toNat v := rfl
@[simp] theorem putByte_stored (a : Addr) (v : Byte) : (s.putByte a v).stored = markAddr s.stored a.toNat := rfl
@[simp] theorem putByte_irq (a : Addr) (v : Byte) : (s.putByte a v).irq = s.irq := rfl
@[simp] theorem putByte_deviceLog (a : Addr) (v : Byte) : (s.putByte a v).deviceLog = s.deviceLog := rfl
@[simp] theorem putByte_draws (a : Addr) (v : Byte) : (s.putByte a v).draws = s.draws := rfl
@[simp] theorem putByte_reg (a : Addr) (v : Byte) (q : RegNum) : (s.putByte a v).reg q = s.reg q := rfl
@[simp] theorem putByte_index (a : Addr) (v : Byte) (q : BitVec 2) : (s.putByte a v).index q = s.index q := rfl
@[simp] theorem putByte_fpr (a : Addr) (v : Byte) (q : BitVec 2) : (s.putByte a v).fpr q = s.fpr q := rfl
@[simp] theorem putByte_tlbEntry (a : Addr) (v : Byte) (q : BitVec 5) : (s.putByte a v).tlbEntry q = s.tlbEntry q := rfl
@[simp] theorem putByte_npc (a : Addr) (v : Byte) : (s.putByte a v).npc = s.npc := rfl

@[simp] theorem enterException_cfg (x : Exc) : (s.enterException x).cfg = s.cfg := rfl
@[simp] theorem enterException_regs (x : Exc) : (s.enterException x).regs = s.regs := rfl
@[simp] theorem enterException_pc (x : Exc) : (s.enterException x).pc = s.vectorBase + 8#24 := rfl
@[simp] theorem enterException_msr (x : Exc) : (s.enterException x).msr = { s.msr.saveModes with ec := x.code, eip := true } := rfl
@[simp] theorem enterException_lr (x : Exc) : (s.enterException x).lr = s.lr := rfl
@[simp] theorem enterException_ilr (x : Exc) : (s.enterException x).ilr = s.ilr := rfl
@[simp] theorem enterException_elr (x : Exc) : (s.enterException x).elr = s.trapLink.setWidth 32 := rfl
@[simp] theorem enterException_cc (x : Exc) : (s.enterException x).cc = s.cc := rfl
@[simp] theorem enterException_vbar (x : Exc) : (s.enterException x).vbar = s.vbar := rfl
@[simp] theorem enterException_ear (x : Exc) : (s.enterException x).ear = s.earAfter x := rfl
@[simp] theorem enterException_ctx (x : Exc) : (s.enterException x).ctx = s.ctx := rfl
@[simp] theorem enterException_ids (x : Exc) : (s.enterException x).ids = s.ids := rfl
@[simp] theorem enterException_fps (x : Exc) : (s.enterException x).fps = s.fps := rfl
@[simp] theorem enterException_pid (x : Exc) : (s.enterException x).pid = s.pid := rfl
@[simp] theorem enterException_tlb (x : Exc) : (s.enterException x).tlb = s.tlb := rfl
@[simp] theorem enterException_immv (x : Exc) : (s.enterException x).immv = false := rfl
@[simp] theorem enterException_imma (x : Exc) : (s.enterException x).imma = s.imma := rfl
@[simp] theorem enterException_mem (x : Exc) : (s.enterException x).mem = s.mem := rfl
@[simp] theorem enterException_stored (x : Exc) : (s.enterException x).stored = s.stored := rfl
@[simp] theorem enterException_irq (x : Exc) : (s.enterException x).irq = s.irq := rfl
@[simp] theorem enterException_deviceLog (x : Exc) : (s.enterException x).deviceLog = s.deviceLog := rfl
@[simp] theorem enterException_draws (x : Exc) : (s.enterException x).draws = s.draws := rfl
@[simp] theorem enterException_reg (x : Exc) (q : RegNum) : (s.enterException x).reg q = s.reg q := rfl
@[simp] theorem enterException_index (x : Exc) (q : BitVec 2) : (s.enterException x).index q = s.index q := rfl
@[simp] theorem enterException_fpr (x : Exc) (q : BitVec 2) : (s.enterException x).fpr q = s.fpr q := rfl
@[simp] theorem enterException_tlbEntry (x : Exc) (q : BitVec 5) : (s.enterException x).tlbEntry q = s.tlbEntry q := rfl
@[simp] theorem enterException_byteAt (x : Exc) (q : Addr) : (s.enterException x).byteAt q = s.byteAt q := rfl

@[simp] theorem enterSvc_cfg : s.enterSvc.cfg = s.cfg := rfl
@[simp] theorem enterSvc_regs : s.enterSvc.regs = s.regs := rfl
@[simp] theorem enterSvc_pc : s.enterSvc.pc = s.vectorBase + 12#24 := rfl
@[simp] theorem enterSvc_msr : s.enterSvc.msr = { s.msr.saveModes with eip := true } := rfl
@[simp] theorem enterSvc_lr : s.enterSvc.lr = s.lr := rfl
@[simp] theorem enterSvc_ilr : s.enterSvc.ilr = s.ilr := rfl
@[simp] theorem enterSvc_elr : s.enterSvc.elr = s.npc.setWidth 32 := rfl
@[simp] theorem enterSvc_cc : s.enterSvc.cc = s.cc := rfl
@[simp] theorem enterSvc_vbar : s.enterSvc.vbar = s.vbar := rfl
@[simp] theorem enterSvc_ear : s.enterSvc.ear = s.ear := rfl
@[simp] theorem enterSvc_ctx : s.enterSvc.ctx = s.ctx := rfl
@[simp] theorem enterSvc_ids : s.enterSvc.ids = s.ids := rfl
@[simp] theorem enterSvc_fps : s.enterSvc.fps = s.fps := rfl
@[simp] theorem enterSvc_pid : s.enterSvc.pid = s.pid := rfl
@[simp] theorem enterSvc_tlb : s.enterSvc.tlb = s.tlb := rfl
@[simp] theorem enterSvc_immv : s.enterSvc.immv = false := rfl
@[simp] theorem enterSvc_imma : s.enterSvc.imma = s.imma := rfl
@[simp] theorem enterSvc_mem : s.enterSvc.mem = s.mem := rfl
@[simp] theorem enterSvc_stored : s.enterSvc.stored = s.stored := rfl
@[simp] theorem enterSvc_irq : s.enterSvc.irq = s.irq := rfl
@[simp] theorem enterSvc_deviceLog : s.enterSvc.deviceLog = s.deviceLog := rfl
@[simp] theorem enterSvc_draws : s.enterSvc.draws = s.draws := rfl
@[simp] theorem enterSvc_reg (q : RegNum) : s.enterSvc.reg q = s.reg q := rfl
@[simp] theorem enterSvc_index (q : BitVec 2) : s.enterSvc.index q = s.index q := rfl
@[simp] theorem enterSvc_fpr (q : BitVec 2) : s.enterSvc.fpr q = s.fpr q := rfl
@[simp] theorem enterSvc_tlbEntry (q : BitVec 5) : s.enterSvc.tlbEntry q = s.tlbEntry q := rfl
@[simp] theorem enterSvc_byteAt (q : Addr) : s.enterSvc.byteAt q = s.byteAt q := rfl

@[simp] theorem enterInterrupt_cfg : s.enterInterrupt.cfg = s.cfg := rfl
@[simp] theorem enterInterrupt_regs : s.enterInterrupt.regs = s.regs := rfl
@[simp] theorem enterInterrupt_pc : s.enterInterrupt.pc = s.vectorBase + 4#24 := rfl
@[simp] theorem enterInterrupt_msr : s.enterInterrupt.msr = { s.msr.saveModes with i := false } := rfl
@[simp] theorem enterInterrupt_lr : s.enterInterrupt.lr = s.lr := rfl
@[simp] theorem enterInterrupt_ilr : s.enterInterrupt.ilr = s.pc.setWidth 32 := rfl
@[simp] theorem enterInterrupt_elr : s.enterInterrupt.elr = s.elr := rfl
@[simp] theorem enterInterrupt_cc : s.enterInterrupt.cc = s.cc := rfl
@[simp] theorem enterInterrupt_vbar : s.enterInterrupt.vbar = s.vbar := rfl
@[simp] theorem enterInterrupt_ear : s.enterInterrupt.ear = s.ear := rfl
@[simp] theorem enterInterrupt_ctx : s.enterInterrupt.ctx = s.ctx := rfl
@[simp] theorem enterInterrupt_ids : s.enterInterrupt.ids = s.ids := rfl
@[simp] theorem enterInterrupt_fps : s.enterInterrupt.fps = s.fps := rfl
@[simp] theorem enterInterrupt_pid : s.enterInterrupt.pid = s.pid := rfl
@[simp] theorem enterInterrupt_tlb : s.enterInterrupt.tlb = s.tlb := rfl
@[simp] theorem enterInterrupt_immv : s.enterInterrupt.immv = s.immv := rfl
@[simp] theorem enterInterrupt_imma : s.enterInterrupt.imma = s.imma := rfl
@[simp] theorem enterInterrupt_mem : s.enterInterrupt.mem = s.mem := rfl
@[simp] theorem enterInterrupt_stored : s.enterInterrupt.stored = s.stored := rfl
@[simp] theorem enterInterrupt_irq : s.enterInterrupt.irq = s.irq := rfl
@[simp] theorem enterInterrupt_deviceLog : s.enterInterrupt.deviceLog = s.deviceLog := rfl
@[simp] theorem enterInterrupt_draws : s.enterInterrupt.draws = s.draws := rfl
@[simp] theorem enterInterrupt_reg (q : RegNum) : s.enterInterrupt.reg q = s.reg q := rfl
@[simp] theorem enterInterrupt_index (q : BitVec 2) : s.enterInterrupt.index q = s.index q := rfl
@[simp] theorem enterInterrupt_fpr (q : BitVec 2) : s.enterInterrupt.fpr q = s.fpr q := rfl
@[simp] theorem enterInterrupt_tlbEntry (q : BitVec 5) : s.enterInterrupt.tlbEntry q = s.tlbEntry q := rfl
@[simp] theorem enterInterrupt_byteAt (q : Addr) : s.enterInterrupt.byteAt q = s.byteAt q := rfl

@[simp] theorem leaveInterrupt_cfg : s.leaveInterrupt.cfg = s.cfg := rfl
@[simp] theorem leaveInterrupt_regs : s.leaveInterrupt.regs = s.regs := rfl
@[simp] theorem leaveInterrupt_pc : s.leaveInterrupt.pc = linkAddr s.ilr := rfl
@[simp] theorem leaveInterrupt_msr : s.leaveInterrupt.msr = { s.msr.restoreModes with i := true } := rfl
@[simp] theorem leaveInterrupt_lr : s.leaveInterrupt.lr = s.lr := rfl
@[simp] theorem leaveInterrupt_ilr : s.leaveInterrupt.ilr = s.ilr := rfl
@[simp] theorem leaveInterrupt_elr : s.leaveInterrupt.elr = s.elr := rfl
@[simp] theorem leaveInterrupt_cc : s.leaveInterrupt.cc = s.cc := rfl
@[simp] theorem leaveInterrupt_vbar : s.leaveInterrupt.vbar = s.vbar := rfl
@[simp] theorem leaveInterrupt_ear : s.leaveInterrupt.ear = s.ear := rfl
@[simp] theorem leaveInterrupt_ctx : s.leaveInterrupt.ctx = s.ctx := rfl
@[simp] theorem leaveInterrupt_ids : s.leaveInterrupt.ids = s.ids := rfl
@[simp] theorem leaveInterrupt_fps : s.leaveInterrupt.fps = s.fps := rfl
@[simp] theorem leaveInterrupt_pid : s.leaveInterrupt.pid = s.pid := rfl
@[simp] theorem leaveInterrupt_tlb : s.leaveInterrupt.tlb = s.tlb := rfl
@[simp] theorem leaveInterrupt_immv : s.leaveInterrupt.immv = false := rfl
@[simp] theorem leaveInterrupt_imma : s.leaveInterrupt.imma = s.imma := rfl
@[simp] theorem leaveInterrupt_mem : s.leaveInterrupt.mem = s.mem := rfl
@[simp] theorem leaveInterrupt_stored : s.leaveInterrupt.stored = s.stored := rfl
@[simp] theorem leaveInterrupt_irq : s.leaveInterrupt.irq = s.irq := rfl
@[simp] theorem leaveInterrupt_deviceLog : s.leaveInterrupt.deviceLog = s.deviceLog := rfl
@[simp] theorem leaveInterrupt_draws : s.leaveInterrupt.draws = s.draws := rfl
@[simp] theorem leaveInterrupt_reg (q : RegNum) : s.leaveInterrupt.reg q = s.reg q := rfl
@[simp] theorem leaveInterrupt_index (q : BitVec 2) : s.leaveInterrupt.index q = s.index q := rfl
@[simp] theorem leaveInterrupt_fpr (q : BitVec 2) : s.leaveInterrupt.fpr q = s.fpr q := rfl
@[simp] theorem leaveInterrupt_tlbEntry (q : BitVec 5) : s.leaveInterrupt.tlbEntry q = s.tlbEntry q := rfl
@[simp] theorem leaveInterrupt_byteAt (q : Addr) : s.leaveInterrupt.byteAt q = s.byteAt q := rfl

@[simp] theorem leaveException_cfg : s.leaveException.cfg = s.cfg := rfl
@[simp] theorem leaveException_regs : s.leaveException.regs = s.regs := rfl
@[simp] theorem leaveException_pc : s.leaveException.pc = linkAddr s.elr := rfl
@[simp] theorem leaveException_msr : s.leaveException.msr = { s.msr.restoreModes with eip := false } := rfl
@[simp] theorem leaveException_lr : s.leaveException.lr = s.lr := rfl
@[simp] theorem leaveException_ilr : s.leaveException.ilr = s.ilr := rfl
@[simp] theorem leaveException_elr : s.leaveException.elr = s.elr := rfl
@[simp] theorem leaveException_cc : s.leaveException.cc = s.cc := rfl
@[simp] theorem leaveException_vbar : s.leaveException.vbar = s.vbar := rfl
@[simp] theorem leaveException_ear : s.leaveException.ear = s.ear := rfl
@[simp] theorem leaveException_ctx : s.leaveException.ctx = s.ctx := rfl
@[simp] theorem leaveException_ids : s.leaveException.ids = s.ids := rfl
@[simp] theorem leaveException_fps : s.leaveException.fps = s.fps := rfl
@[simp] theorem leaveException_pid : s.leaveException.pid = s.pid := rfl
@[simp] theorem leaveException_tlb : s.leaveException.tlb = s.tlb := rfl
@[simp] theorem leaveException_immv : s.leaveException.immv = false := rfl
@[simp] theorem leaveException_imma : s.leaveException.imma = s.imma := rfl
@[simp] theorem leaveException_mem : s.leaveException.mem = s.mem := rfl
@[simp] theorem leaveException_stored : s.leaveException.stored = s.stored := rfl
@[simp] theorem leaveException_irq : s.leaveException.irq = s.irq := rfl
@[simp] theorem leaveException_deviceLog : s.leaveException.deviceLog = s.deviceLog := rfl
@[simp] theorem leaveException_draws : s.leaveException.draws = s.draws := rfl
@[simp] theorem leaveException_reg (q : RegNum) : s.leaveException.reg q = s.reg q := rfl
@[simp] theorem leaveException_index (q : BitVec 2) : s.leaveException.index q = s.index q := rfl
@[simp] theorem leaveException_fpr (q : BitVec 2) : s.leaveException.fpr q = s.fpr q := rfl
@[simp] theorem leaveException_tlbEntry (q : BitVec 5) : s.leaveException.tlbEntry q = s.tlbEntry q := rfl
@[simp] theorem leaveException_byteAt (q : Addr) : s.leaveException.byteAt q = s.byteAt q := rfl

@[simp] theorem reg_setReg_same (r : RegNum) (v : Word) : (s.setReg r v).reg r = v := by
  simp [State.reg, State.setReg]

@[simp] theorem reg_setReg_ne {q r : RegNum} (v : Word) (h : q ≠ r) : (s.setReg r v).reg q = s.reg q := by
  have : r.toNat ≠ q.toNat := fun e => h (BitVec.eq_of_toNat_eq e.symm)
  simp [State.reg, State.setReg, this]

theorem reg_setReg (q r : RegNum) (v : Word) : (s.setReg r v).reg q = if q = r then v else s.reg q := by
  by_cases h : q = r
  · subst h; simp
  · simp [h]

@[simp] theorem index_setIndex_same (r : BitVec 2) (v : Long) : (s.setIndex r v).index r = v := by
  simp [State.index, State.setIndex]

@[simp] theorem index_setIndex_ne {q r : BitVec 2} (v : Long) (h : q ≠ r) :
    (s.setIndex r v).index q = s.index q := by
  have : r.toNat ≠ q.toNat := fun e => h (BitVec.eq_of_toNat_eq e.symm)
  simp [State.index, State.setIndex, this]

@[simp] theorem fpr_setFpr_same (r : BitVec 2) (v : Long) : (s.setFpr r v).fpr r = v := by
  simp [State.fpr, State.setFpr]

@[simp] theorem fpr_setFpr_ne {q r : BitVec 2} (v : Long) (h : q ≠ r) : (s.setFpr r v).fpr q = s.fpr q := by
  have : r.toNat ≠ q.toNat := fun e => h (BitVec.eq_of_toNat_eq e.symm)
  simp [State.fpr, State.setFpr, this]

@[simp] theorem tlbEntry_setTlb_same (r : BitVec 5) (v : Long) : (s.setTlb r v).tlbEntry r = v := by
  simp [State.tlbEntry, State.setTlb]

@[simp] theorem tlbEntry_setTlb_ne {q r : BitVec 5} (v : Long) (h : q ≠ r) :
    (s.setTlb r v).tlbEntry q = s.tlbEntry q := by
  have : r.toNat ≠ q.toNat := fun e => h (BitVec.eq_of_toNat_eq e.symm)
  simp [State.tlbEntry, State.setTlb, this]

/-- Two states with the same fields are the same state. -/
theorem State.ext_fields {s t : State} (h : s.cfg = t.cfg ∧ s.regs = t.regs ∧ s.pc = t.pc ∧ s.msr = t.msr ∧ s.lr = t.lr ∧ s.ilr = t.ilr ∧ s.elr = t.elr ∧ s.cc = t.cc ∧ s.vbar = t.vbar ∧ s.ear = t.ear ∧ s.ctx = t.ctx ∧ s.ids = t.ids ∧ s.fps = t.fps ∧ s.pid = t.pid ∧ s.tlb = t.tlb ∧ s.immv = t.immv ∧ s.imma = t.imma ∧ s.mem = t.mem ∧ s.stored = t.stored ∧ s.irq = t.irq ∧ s.deviceLog = t.deviceLog ∧ s.draws = t.draws) : s = t := by
  cases s; cases t; simp_all

end Sys2Proof.Machine
end

