-- ==== Sys2Proof/Laws/Memory.lean ====
section
/-! SUPPORT. The laws of memory and of the marks of stores: reading after writing, and the canonical forms. -/

namespace Sys2Proof.Machine

/-! ### Reading after writing -/

theorem Memory.read_erase_same (m : Memory) (a : Nat) : (m.erase a).read a = Config.blankByte := by
  induction m with
  | nil => rfl
  | cons c m ih =>
    obtain ⟨k, v⟩ := c
    by_cases h : k = a
    · simp_all [Memory.erase]
    · simp_all [Memory.erase, Memory.read]

theorem Memory.read_erase_ne (m : Memory) {a b : Nat} (h : b ≠ a) : (m.erase a).read b = m.read b := by
  induction m with
  | nil => rfl
  | cons c m ih =>
    obtain ⟨k, v⟩ := c
    by_cases hk : k = a
    · subst hk; simp_all [Memory.erase, Memory.read, Ne.symm h]
    · simp_all [Memory.erase, Memory.read]

theorem Memory.read_insert_same (m : Memory) (a : Nat) (v : Byte) (h : m.read a = Config.blankByte)
    (hm : ∀ c ∈ m, c.1 ≠ a) : (m.insert a v).read a = v := by
  induction m with
  | nil => simp [Memory.insert, Memory.read]
  | cons c m ih =>
    obtain ⟨k, w⟩ := c
    have hk : k ≠ a := hm (k, w) (by simp)
    simp only [Memory.insert]
    split
    · simp [Memory.read]
    · simp only [Memory.read, hk, if_false] at h ⊢
      exact ih h (fun c hc => hm c (by simp [hc]))

theorem Memory.read_insert_ne (m : Memory) {a b : Nat} (v : Byte) (h : b ≠ a) : (m.insert a v).read b = m.read b := by
  induction m with
  | nil => simp [Memory.insert, Memory.read, Ne.symm h]
  | cons c m ih =>
    obtain ⟨k, w⟩ := c
    simp only [Memory.insert]
    split
    · simp [Memory.read, Ne.symm h]
    · simp [Memory.read, ih]

theorem Memory.mem_erase {m : Memory} {a : Nat} {c : Host.Cell} : c ∈ m.erase a ↔ c ∈ m ∧ c.1 ≠ a := by
  simp [Memory.erase]

/-- Reading the byte written gives it. -/
@[simp] theorem Memory.read_write_same (m : Memory) (a : Nat) (v : Byte) : (m.write a v).read a = v := by
  unfold Memory.write
  split
  · rename_i h; rw [Memory.read_erase_same, h]
  · exact Memory.read_insert_same _ _ _ (Memory.read_erase_same m a) (fun c hc => (Memory.mem_erase.1 hc).2)

/-- Writing a byte leaves every other byte. -/
theorem Memory.read_write_ne (m : Memory) {a b : Nat} (v : Byte) (h : b ≠ a) : (m.write a v).read b = m.read b := by
  unfold Memory.write
  split
  · exact Memory.read_erase_ne m h
  · rw [Memory.read_insert_ne _ v h, Memory.read_erase_ne m h]

/-! ### The canonical form -/

/-- The canonical form, spelled out. -/
theorem Memory.wf_iff (m : Memory) :
    m.wf = true ↔ m.Pairwise (fun c d => c.1 < d.1) ∧ ∀ c ∈ m, c.1 < 2 ^ 24 ∧ c.2 ≠ Config.blankByte := by
  simp [Memory.wf, List.pairwise_map]

theorem Memory.mem_insert {m : Memory} {a : Nat} {v : Byte} {c : Host.Cell} :
    c ∈ m.insert a v ↔ c = (a, v) ∨ c ∈ m := by
  induction m with
  | nil => simp [Memory.insert]
  | cons d m ih =>
    obtain ⟨k, w⟩ := d
    simp only [Memory.insert]
    split
    · simp
    · simp only [List.mem_cons, ih]; tauto

theorem Memory.rising_insert {m : Memory} {a : Nat} {v : Byte} (h : m.Pairwise (fun c d => c.1 < d.1))
    (ha : ∀ c ∈ m, c.1 ≠ a) : (m.insert a v).Pairwise (fun c d => c.1 < d.1) := by
  induction m with
  | nil => simp [Memory.insert]
  | cons d m ih =>
    obtain ⟨k, w⟩ := d
    have hk : k ≠ a := ha (k, w) (by simp)
    obtain ⟨h1, h2⟩ := List.pairwise_cons.1 h
    simp only [Memory.insert]
    split
    · rename_i hlt
      refine List.pairwise_cons.2 ⟨?_, h⟩
      intro c hc
      rcases List.mem_cons.1 hc with rfl | hc
      · exact hlt
      · exact lt_trans hlt (h1 c hc)
    · rename_i hlt
      refine List.pairwise_cons.2 ⟨?_, ih h2 (fun c hc => ha c (by simp [hc]))⟩
      intro c hc
      rcases Memory.mem_insert.1 hc with rfl | hc
      · exact lt_of_le_of_ne (not_lt.1 hlt) hk
      · exact h1 c hc

/-- Writing a byte of the address space keeps the canonical form. -/
theorem Memory.wf_write {m : Memory} {a : Nat} (v : Byte) (hm : m.wf = true) (ha : a < 2 ^ 24) :
    (m.write a v).wf = true := by
  rw [Memory.wf_iff] at hm ⊢
  have he : (m.erase a).Pairwise (fun c d => c.1 < d.1) := hm.1.filter _
  unfold Memory.write
  split
  · exact ⟨he, fun c hc => hm.2 c (Memory.mem_erase.1 hc).1⟩
  · rename_i hv
    refine ⟨Memory.rising_insert he (fun c hc => (Memory.mem_erase.1 hc).2), fun c hc => ?_⟩
    rcases Memory.mem_insert.1 hc with rfl | hc
    · exact ⟨ha, hv⟩
    · exact hm.2 c (Memory.mem_erase.1 hc).1

/-- The empty memory of reset is in the canonical form. -/
theorem reset_memory_wf : State.reset.mem.wf = true := by decide

/-! ### The marks of stores -/

/-- A mark is added, none is lost. -/
@[simp] theorem mem_markAddr {l : List Nat} {a b : Nat} : b ∈ markAddr l a ↔ b = a ∨ b ∈ l := by
  induction l with
  | nil => simp [markAddr]
  | cons k l ih =>
    simp only [markAddr]
    split
    · simp
    · split
      · rename_i h; subst h; simp
      · simp only [List.mem_cons, ih]; tauto

/-- Marking keeps the marks strictly rising. -/
theorem markAddr_rising {l : List Nat} (a : Nat) (h : l.Pairwise (· < ·)) : (markAddr l a).Pairwise (· < ·) := by
  induction l with
  | nil => simp [markAddr]
  | cons k l ih =>
    obtain ⟨h1, h2⟩ := List.pairwise_cons.1 h
    simp only [markAddr]
    split
    · rename_i hlt
      refine List.pairwise_cons.2 ⟨fun c hc => ?_, h⟩
      rcases List.mem_cons.1 hc with rfl | hc
      · exact hlt
      · exact lt_trans hlt (h1 c hc)
    · split
      · exact h
      · refine List.pairwise_cons.2 ⟨fun c hc => ?_, ih h2⟩
        rcases mem_markAddr.1 hc with rfl | hc
        · omega
        · exact h1 c hc

/-! ### Bytes of the state -/

variable (s : State)

@[simp] theorem byteAt_putByte_same (a : Addr) (v : Byte) : (s.putByte a v).byteAt a = v := by
  simp [State.byteAt, State.putByte]

@[simp] theorem byteAt_putByte_ne {a b : Addr} (v : Byte) (h : b ≠ a) : (s.putByte a v).byteAt b = s.byteAt b := by
  have : b.toNat ≠ a.toNat := fun e => h (BitVec.eq_of_toNat_eq e)
  simp [State.byteAt, State.putByte, Memory.read_write_ne _ _ this]

/-- An address and the next are not the same. -/
theorem addr_ne_succ (a : Addr) : a ≠ a + 1#24 := by bv_omega

/-- The two bytes of a stored word, in the build's order. -/
theorem byteAt_putWord (a b : Addr) (v : Word) :
    (s.putWord a v).byteAt b =
      if b = a + 1#24 then secondByte s.cfg.endian v else if b = a then firstByte s.cfg.endian v else s.byteAt b := by
  unfold State.putWord
  by_cases h : b = a + 1#24
  · simp [h]
  · rw [byteAt_putByte_ne _ _ h]
    by_cases h' : b = a
    · simp [h']
    · rw [byteAt_putByte_ne _ _ h']; simp [h, h']

/-- A word store changes memory and the marks, and no other field. -/
theorem putWord_eq (a : Addr) (v : Word) :
    s.putWord a v = { s with mem := (s.putWord a v).mem, stored := (s.putWord a v).stored } := by
  unfold State.putWord State.putByte; rfl

/-- The bytes of a word, put together again in the same order. -/
theorem joinBytes_split (e : Endian) (v : Word) : joinBytes e (firstByte e v) (secondByte e v) = v := by
  cases e <;> simp only [joinBytes, firstByte, secondByte] <;> grind

/-- A word read back where it was stored. -/
@[simp] theorem wordAt_putWord (a : Addr) (v : Word) : (s.putWord a v).wordAt a = v := by
  have h : (s.putWord a v).cfg = s.cfg := rfl
  simp [State.wordAt, byteAt_putWord, h, joinBytes_split]

end Sys2Proof.Machine
end

