-- ==== Sys2Proof/Laws/Ops.lean ====
section
/-! SUPPORT. For each shared operation, one lemma that says what it can do. -/

namespace Sys2Proof.Machine

variable {s t : State}

/-- Completing always answers a next state. -/
theorem complete_eq (s : State) : complete s = .next (s.dropLatch.setPc s.npc) := rfl

theorem complete_next (h : complete s = .next t) : t = s.dropLatch.setPc s.npc := by
  simpa [complete] using h.symm

/-- Raising an exception enters it, or refuses for one of two reasons. -/
theorem raise_cases (x : Exc) (s : State) :
    (s.msr.e = true ∧ s.msr.eip = false ∧ raise x s = .next (s.enterException x)) ∨
      (s.msr.e = false ∧ raise x s = .refused .exceptionDisabled) ∨
      (s.msr.e = true ∧ s.msr.eip = true ∧ raise x s = .refused .nestedTrap) := by
  unfold raise
  cases s.msr.e <;> cases s.msr.eip <;> simp

theorem raise_next {x : Exc} (h : raise x s = .next t) :
    s.msr.e = true ∧ s.msr.eip = false ∧ t = s.enterException x := by
  rcases raise_cases x s with ⟨h1, h2, h3⟩ | ⟨_, h3⟩ | ⟨_, _, h3⟩
  · rw [h3] at h; exact ⟨h1, h2, by simpa using h.symm⟩
  · rw [h3] at h; cases h
  · rw [h3] at h; cases h

/-- An instruction without a prefix runs, or refuses, or runs with the prefix dropped. -/
theorem unprefixed_cases (s : State) (k : State → Result) :
    (s.immv = false ∧ unprefixed s k = k s) ∨
      (s.immv = true ∧ s.cfg.immUndocumented = .refuse ∧ unprefixed s k = .refused .undocumentedPrefix) ∨
      (s.immv = true ∧ s.cfg.immUndocumented = .ignore ∧ unprefixed s k = k s.dropLatch) := by
  unfold unprefixed
  cases s.immv <;> cases s.cfg.immUndocumented <;> simp

theorem dropLatch_self (h : s.immv = false) : s.dropLatch = s := by
  cases s; simp_all [State.dropLatch]

/-- With no prefix in the way an instruction runs on the state without the latch. -/
theorem unprefixed_free (k : State → Result) (h : s.immv = false ∨ s.cfg.immUndocumented = .ignore) :
    unprefixed s k = k s.dropLatch := by
  rcases unprefixed_cases s k with ⟨h1, h2⟩ | ⟨h1, h2, _⟩ | ⟨_, _, h3⟩
  · rw [h2, dropLatch_self h1]
  · rcases h with h | h
    · rw [h] at h1; cases h1
    · rw [h] at h2; cases h2
  · exact h3

/-- If an instruction without a prefix answers a next state, it ran on the state without the latch. -/
theorem unprefixed_next {k : State → Result} (h : unprefixed s k = .next t) : k s.dropLatch = .next t := by
  rcases unprefixed_cases s k with ⟨h1, h2⟩ | ⟨_, _, h3⟩ | ⟨_, _, h3⟩
  · rwa [h2, ← dropLatch_self h1] at h
  · rw [h3] at h; cases h
  · rwa [h3] at h

/-- A privileged instruction runs in kernel mode and refuses in user mode. -/
theorem kernelOnly_cases (s : State) (k : State → Result) :
    (s.msr.um = false ∧ kernelOnly s k = k s) ∨ (s.msr.um = true ∧ kernelOnly s k = .refused .privileged) := by
  unfold kernelOnly
  cases s.msr.um <;> simp

theorem kernelOnly_next {k : State → Result} (h : kernelOnly s k = .next t) : s.msr.um = false ∧ k s = .next t := by
  rcases kernelOnly_cases s k with ⟨h1, h2⟩ | ⟨_, h2⟩
  · exact ⟨h1, by rwa [h2] at h⟩
  · rw [h2] at h; cases h

/-- An instruction of an optional unit runs, or is an illegal opcode, or refuses. -/
theorem needsUnit_cases (p : Bool) (s : State) (k : State → Result) :
    (p = true ∧ needsUnit p s k = k s) ∨
      (p = false ∧ s.cfg.unitAbsent = .illegal ∧ needsUnit p s k = raise .illegalOpcode s) ∨
      (p = false ∧ s.cfg.unitAbsent = .refuse ∧ needsUnit p s k = .refused .unitAbsent) := by
  unfold needsUnit
  cases p <;> cases s.cfg.unitAbsent <;> simp

theorem needsUnit_next {p : Bool} {k : State → Result} (h : needsUnit p s k = .next t) :
    (p = true ∧ k s = .next t) ∨ (p = false ∧ raise .illegalOpcode s = .next t) := by
  rcases needsUnit_cases p s k with ⟨h1, h2⟩ | ⟨h1, _, h2⟩ | ⟨_, _, h2⟩
  · exact .inl ⟨h1, by rwa [h2] at h⟩
  · exact .inr ⟨h1, by rwa [h2] at h⟩
  · rw [h2] at h; cases h

/-- A 16-bit read gives memory's value and changes nothing, or gives a device's free value and is recorded. -/
theorem loadWord_ok {k : AccessKind} {a : Addr} {v : Word} (h : s.loadWord k a = .ok (v, t)) :
    (s.regionKind k a = some .memory ∧ v = s.wordAt a ∧ t = s) ∨
      (s.regionKind k a = some .device ∧ v = Config.deviceWord s.deviceLog k a ∧ t = s.tell (.read k a)) := by
  unfold State.loadWord at h
  split at h
  · cases h
  · rename_i hk; simp only [Except.ok.injEq, Prod.mk.injEq] at h; exact .inl ⟨hk, h.1.symm, h.2.symm⟩
  · rename_i hk; simp only [Except.ok.injEq, Prod.mk.injEq] at h; exact .inr ⟨hk, h.1.symm, h.2.symm⟩

/-- A byte read, in the same way. -/
theorem loadByte_ok {a : Addr} {v : Byte} (h : s.loadByte a = .ok (v, t)) :
    (s.regionKind .readByte a = some .memory ∧ v = s.byteAt a ∧ t = s) ∨
      (s.regionKind .readByte a = some .device ∧ v = Config.deviceByte s.deviceLog a ∧ t = s.tell (.read .readByte a)) := by
  unfold State.loadByte at h
  split at h
  · cases h
  · rename_i hk; simp only [Except.ok.injEq, Prod.mk.injEq] at h; exact .inl ⟨hk, h.1.symm, h.2.symm⟩
  · rename_i hk; simp only [Except.ok.injEq, Prod.mk.injEq] at h; exact .inr ⟨hk, h.1.symm, h.2.symm⟩

/-- A 16-bit write changes two bytes of memory and their marks, or only the marks and the record of device accesses. -/
theorem storeWord_ok {a : Addr} {v : Word} (h : s.storeWord a v = .ok t) :
    (s.regionKind .writeWord a = some .memory ∧ t = s.putWord a v) ∨
      (s.regionKind .writeWord a = some .device ∧ t = s.sendWord a v) := by
  unfold State.storeWord at h
  split at h
  · cases h
  · rename_i hk; simp only [Except.ok.injEq] at h; exact .inl ⟨hk, h.symm⟩
  · rename_i hk; simp only [Except.ok.injEq] at h; exact .inr ⟨hk, h.symm⟩

/-- A byte write, in the same way. -/
theorem storeByte_ok {a : Addr} {v : Byte} (h : s.storeByte a v = .ok t) :
    (s.regionKind .writeByte a = some .memory ∧ t = s.putByte a v) ∨
      (s.regionKind .writeByte a = some .device ∧ t = s.sendByte a v) := by
  unfold State.storeByte at h
  split at h
  · cases h
  · rename_i hk; simp only [Except.ok.injEq] at h; exact .inl ⟨hk, h.symm⟩
  · rename_i hk; simp only [Except.ok.injEq] at h; exact .inr ⟨hk, h.symm⟩

/-- A fetch reads a word of bytes that no store has touched. -/
theorem fetch_ok {w : Word} (h : s.fetch = .ok (w, t)) :
    s.pc.toNat ∉ s.stored ∧ (s.pc + 1#24).toNat ∉ s.stored ∧ s.loadWord .fetch s.pc = .ok (w, t) := by
  unfold State.fetch at h
  split at h
  · cases h
  · rename_i hn
    simp only [Bool.or_eq_true, List.contains_iff_mem, not_or] at hn
    exact ⟨hn.1, hn.2, h⟩

/-- What a step that answers a next state did: it took an interrupt, ran an instruction, or trapped on an illegal
word. -/
theorem cycle_next (h : cycle s = .next t) :
    s.pc.getLsbD 0 = false ∧ s.msr.vm = false ∧
      ((s.interruptDue = true ∧ t = s.popIrq.enterInterrupt) ∨
        (s.interruptDue = false ∧ ∃ w u, s.popIrq.fetch = .ok (w, u) ∧
          ((∃ i, decodeWord w = .ok i ∧ exec i u = .next t) ∨
            (∃ r, decodeWord w = .error r) ∧ raise .illegalOpcode u = .next t))) := by
  unfold cycle at h
  split at h
  · cases h
  · rename_i h1
    split at h
    · cases h
    · rename_i h2
      refine ⟨by simpa using h1, by simpa using h2, ?_⟩
      split at h
      · rename_i h3
        exact .inl ⟨h3, by simpa using h.symm⟩
      · rename_i h3
        refine .inr ⟨by simpa using h3, ?_⟩
        unfold runNext at h
        split at h
        · rename_i w u hf
          refine ⟨w, u, hf, ?_⟩
          unfold runWord at h
          split at h
          · rename_i i hi; exact .inl ⟨i, hi, h⟩
          · rename_i r hr; exact .inr ⟨⟨r, hr⟩, h⟩
        · cases h

/-- Writing a pair: each register of the pair gets its half, every other register stays. -/
theorem reg_setPair (s : State) (p : BitVec 3) (v : Long) (q : RegNum) :
    (s.setPair p v).reg q =
      if q = pairFirst p then (if s.cfg.pairHighFirst then v.extractLsb' 16 16 else v.extractLsb' 0 16)
      else if q = pairSecond p then (if s.cfg.pairHighFirst then v.extractLsb' 0 16 else v.extractLsb' 16 16)
      else s.reg q := by
  have hne : pairFirst p ≠ pairSecond p := by revert p; decide
  unfold State.setPair
  split <;> simp only [reg_setReg] <;> by_cases h1 : q = pairSecond p <;> by_cases h2 : q = pairFirst p <;>
    simp_all

end Sys2Proof.Machine
end

