-- ==== Sys2Proof/Laws/Exec.lean ====
section
/-! SUPPORT. What executing an instruction can do, said once: the shapes of the next state, over all 88 instructions. -/

namespace Sys2Proof.Machine

/-- An address a program counter may hold. -/
def EvenAddr (a : Addr) : Prop := a.getLsbD 0 = false

/-- The ways `exec i s` can answer a next state `t`. -/
inductive Effect (i : Instr) (s : State) : State → Prop
  /-- An exception was entered. -/
  | trapped (x : Exc) : s.msr.e = true → s.msr.eip = false → Effect i s (s.enterException x)
  | supervisor : i = .svc → s.msr.eip = false → Effect i s s.enterSvc
  | fromInterrupt : i = .reti → s.msr.um = false → Effect i s s.leaveInterrupt
  | fromException : i = .rete → s.msr.um = false → Effect i s s.leaveException
  | latched (a : BitVec 14) : i = .imm a → Effect i s ((s.setLatch a).setPc s.npc)
  /-- A special purpose register was written. -/
  | wroteSpr (x : BitVec 3) (y : BitVec 4) (v : Long) : i = .stspr x y →
      (s.msr.um = false ∨ (sprOf y).kernelOnly = false) → Effect i s (((s.writeSpr (sprOf y) v).dropLatch).setPc s.npc)
  | wrotePid (x : RegNum) (v : BitVec 6) : i = .ldpid x → s.msr.um = false →
      Effect i s (((s.setPid v).dropLatch).setPc s.npc)
  | wroteTlb (x : BitVec 3) (d : BitVec 5) (v : Long) : i = .ldtlb x d → s.msr.um = false →
      Effect i s (((s.setTlb d v).dropLatch).setPc s.npc)
  /-- A word was stored, in memory or in a device. -/
  | storedWord (a : Addr) (v : Word) : ((∃ x c, i = .stwAbs x c) ∨ ∃ x y b, i = .stwIdx x y b) →
      Effect i s (((s.putWord a v).dropLatch).setPc s.npc)
  | storedByte (a : Addr) (v : Byte) : ((∃ x e, i = .stbAbs x e) ∨ ∃ x y b, i = .stbIdx x y b) →
      Effect i s (((s.putByte a v).dropLatch).setPc s.npc)
  | sentWord (a : Addr) (v : Word) : ((∃ x c, i = .stwAbs x c) ∨ ∃ x y b, i = .stwIdx x y b) →
      Effect i s (((s.sendWord a v).dropLatch).setPc s.npc)
  | sentByte (a : Addr) (v : Byte) : ((∃ x e, i = .stbAbs x e) ∨ ∃ x y b, i = .stbIdx x y b) →
      Effect i s (((s.sendByte a v).dropLatch).setPc s.npc)
  /-- Registers, index registers, the link register, `pc` and the record of device accesses may have changed. -/
  | quiet (regs : Vector Word 16) (ids : Vector Long 4) (lr : Long) (deviceLog : List DeviceAccess) (pc : Addr) :
      (EvenAddr s.pc → EvenAddr pc) →
      Effect i s { s with regs := regs, ids := ids, lr := lr, deviceLog := deviceLog, pc := pc, immv := false }
  /-- An ALU result, in the user or FP registers, with its flags. -/
  | computed (regs : Vector Word 16) (fps : Vector Long 4) (draws : Nat) (z c : Bool) :
      (i.unit = .integer ∨ i.unit = .barrel ∨ i.unit = .float) → (∀ x y, i ≠ .loadRR x y) → (∀ x b, i ≠ .loadRI x b) →
      Effect i s { s with
        regs := regs, fps := fps, draws := draws, msr := { s.msr with z := z, c := c }, immv := false, pc := s.npc }

variable {s t : State}

/-- The latch makes no difference to what an instruction can do. -/
theorem Effect.of_dropLatch {i : Instr} (h : Effect i s.dropLatch t) : Effect i s t := by
  cases h with
  | trapped x h1 h2 => exact .trapped x h1 h2
  | supervisor h1 h2 => exact .supervisor h1 h2
  | fromInterrupt h1 h2 => exact .fromInterrupt h1 h2
  | fromException h1 h2 => exact .fromException h1 h2
  | latched a h1 => exact .latched a h1
  | wroteSpr x y v h1 h2 =>
    have e : ((s.dropLatch.writeSpr (sprOf y) v).dropLatch).setPc s.dropLatch.npc =
        ((s.writeSpr (sprOf y) v).dropLatch).setPc s.npc := by cases sprOf y <;> rfl
    rw [e]; exact .wroteSpr x y v h1 h2
  | wrotePid x v h1 h2 => exact .wrotePid x v h1 h2
  | wroteTlb x d v h1 h2 => exact .wroteTlb x d v h1 h2
  | storedWord a v h1 => exact .storedWord a v h1
  | storedByte a v h1 => exact .storedByte a v h1
  | sentWord a v h1 => exact .sentWord a v h1
  | sentByte a v h1 => exact .sentByte a v h1
  | quiet regs ids lr deviceLog pc h1 => exact .quiet regs ids lr deviceLog pc h1
  | computed regs fps draws z c h1 h2 h3 => exact .computed regs fps draws z c h1 h2 h3

theorem npc_even (h : EvenAddr s.pc) : EvenAddr s.npc := by
  unfold EvenAddr State.npc at *
  simp only [BitVec.getLsbD, BitVec.toNat_add] at *
  simp [Nat.testBit_zero] at *
  omega

theorem linkAddr_even (v : Long) : EvenAddr (linkAddr v) := by
  have := BitVec.getLsbD_append (x := (v.extractLsb' 1 23 : BitVec 23)) (y := 0#1) (i := 0)
  exact this.trans (by simp)

theorem absWord_even (c : BitVec 9) : EvenAddr (s.absWord c) := by
  unfold EvenAddr State.absWord
  split
  · have := BitVec.getLsbD_append (x := s.imma ++ c) (y := 0#1) (i := 0)
    exact this.trans (by simp)
  · have := BitVec.getLsbD_append (x := c) (y := 0#1) (i := 0)
    rw [BitVec.getLsbD_setWidth, this]; simp

theorem relTarget_even (c : BitVec 9) (h : EvenAddr s.pc) : EvenAddr (s.relTarget c) := by
  have hb : EvenAddr s.relBase := by
    unfold State.relBase; cases s.cfg.relBase
    · exact h
    · exact npc_even h
  unfold State.relTarget
  cases s.cfg.relUnit
  · unfold EvenAddr
    have : (s.relBase + c.signExtend 24 &&& 0xFFFFFE#24).getLsbD 0 = false := by simp
    exact this
  · unfold EvenAddr at *
    simp only [BitVec.getLsbD, BitVec.toNat_add, BitVec.toNat_mul] at *
    simp [Nat.testBit_zero] at *
    omega

/-! ### One lemma per shared operation -/

theorem raise_effect {i : Instr} {x : Exc} (h : raise x s = .next t) : Effect i s t := by
  obtain ⟨h1, h2, rfl⟩ := raise_next h
  exact .trapped x h1 h2

theorem unprefixed_effect {i : Instr} {k : State → Result} (h : unprefixed s k = .next t)
    (hk : ∀ {u : State}, u.immv = false → u.pc = s.pc → k u = .next t → Effect i u t) : Effect i s t :=
  .of_dropLatch (hk rfl rfl (unprefixed_next h))

theorem needsUnit_effect {i : Instr} {p : Bool} {k : State → Result} (h : needsUnit p s k = .next t)
    (hk : k s = .next t → Effect i s t) : Effect i s t := by
  rcases needsUnit_next h with ⟨_, h⟩ | ⟨_, h⟩
  · exact hk h
  · exact raise_effect h

/-- The condition under which an ALU result may be written. -/
def Computes (i : Instr) : Prop :=
  (i.unit = .integer ∨ i.unit = .barrel ∨ i.unit = .float) ∧ (∀ x y, i ≠ .loadRR x y) ∧ ∀ x b, i ≠ .loadRI x b

theorem putResult_effect {i : Instr} {x : RegNum} {v : Word} {c : Bool} (hi : Computes i)
    (h : complete (s.putResult x v c) = .next t) : Effect i s t := by
  rw [complete_next h]; exact .computed _ s.fps s.draws _ _ hi.1 hi.2.1 hi.2.2

theorem putFlagsOf_effect {i : Instr} {v : Word} {c : Bool} (hi : Computes i)
    (h : complete (s.putFlagsOf v c) = .next t) : Effect i s t := by
  rw [complete_next h]; exact .computed s.regs s.fps s.draws _ _ hi.1 hi.2.1 hi.2.2

theorem setReg_effect {i : Instr} {x : RegNum} {v : Word} (h : complete (s.setReg x v) = .next t) : Effect i s t := by
  rw [complete_next h]; exact .quiet _ s.ids s.lr s.deviceLog _ npc_even

theorem setPair_regs (s : State) (p : BitVec 3) (v : Long) :
    s.setPair p v = { s with regs := (s.setPair p v).regs } := by
  unfold State.setPair; split <;> rfl

theorem multiply_effect {i : Instr} {p : Long} (hi : Computes i) (h : multiplyTo p s = .next t) : Effect i s t := by
  have h := complete_next h
  rw [setPair_regs] at h
  rw [h]; exact .computed _ s.fps _ _ _ hi.1 hi.2.1 hi.2.2

theorem div_effect {i : Instr} {x : RegNum} {d : Word} (hi : Computes i) (h : divWith x d s = .next t) : Effect i s t := by
  unfold divWith at h
  split at h
  · exact raise_effect h
  · rw [complete_next h]; exact .computed _ s.fps _ _ _ hi.1 hi.2.1 hi.2.2

theorem divs_effect {i : Instr} {x : RegNum} {d : Word} (hi : Computes i) (h : divsWith x d s = .next t) :
    Effect i s t := by
  unfold divsWith at h
  split at h
  · exact raise_effect h
  · rw [complete_next h]; exact .computed _ s.fps _ _ _ hi.1 hi.2.1 hi.2.2

theorem floatUnit_effect {i : Instr} {k : State → Result} (h : floatUnit s k = .next t)
    (hk : ∀ {u : State}, k u = .next t → Effect i u t) : Effect i s t :=
  needsUnit_effect h fun h => unprefixed_effect h fun _ _ h => hk h

theorem floatTo_effect {i : Instr} {u : BitVec 2} {v : Long} (hi : Computes i) (h : floatTo u v s = .next t) :
    Effect i s t := by
  rw [complete_next h]; exact .computed s.regs _ _ _ _ hi.1 hi.2.1 hi.2.2

theorem jumpIf_effect {i : Instr} {k : Cond} {a : Addr} (ha : EvenAddr s.pc → EvenAddr a) (h : jumpIf k a s = .next t) :
    Effect i s t := by
  unfold jumpIf at h
  rw [Host.Outcome.next.injEq] at h
  rw [← h]
  refine .quiet s.regs s.ids s.lr s.deviceLog _ fun hp => ?_
  split
  · exact ha hp
  · exact npc_even hp

theorem callIf_effect {i : Instr} {k : Cond} {a : Addr} (ha : EvenAddr s.pc → EvenAddr a) (h : callIf k a s = .next t) :
    Effect i s t := by
  unfold callIf at h
  split at h
  · rw [Host.Outcome.next.injEq] at h
    rw [← h]
    exact .quiet s.regs s.ids _ s.deviceLog _ ha
  · rw [complete_next h]; exact .quiet s.regs s.ids s.lr s.deviceLog _ npc_even

theorem ldwFrom_effect {i : Instr} {x : RegNum} {a : Addr} (h : ldwFrom x a s = .next t) : Effect i s t := by
  unfold ldwFrom at h
  split at h
  · cases h
  · rename_i v u hu
    rw [complete_next h]
    rcases loadWord_ok hu with ⟨_, _, rfl⟩ | ⟨_, _, rfl⟩
    · exact .quiet _ u.ids u.lr u.deviceLog _ npc_even
    · exact .quiet _ s.ids s.lr _ _ npc_even

theorem ldbFrom_effect {i : Instr} {x : RegNum} {a : Addr} (h : ldbFrom x a s = .next t) : Effect i s t := by
  unfold ldbFrom at h
  split at h
  · cases h
  · rename_i v u hu
    rw [complete_next h]
    rcases loadByte_ok hu with ⟨_, _, rfl⟩ | ⟨_, _, rfl⟩
    · exact .quiet _ u.ids u.lr u.deviceLog _ npc_even
    · exact .quiet _ s.ids s.lr _ _ npc_even

theorem stwTo_effect {i : Instr} {x : RegNum} {a : Addr} (hi : (∃ x c, i = .stwAbs x c) ∨ ∃ x y b, i = .stwIdx x y b)
    (h : stwTo x a s = .next t) : Effect i s t := by
  unfold stwTo at h
  split at h
  · cases h
  · rename_i u hu
    rw [complete_next h]
    rcases storeWord_ok hu with ⟨_, rfl⟩ | ⟨_, rfl⟩
    · exact .storedWord a _ hi
    · exact .sentWord a _ hi

theorem stbTo_effect {i : Instr} {x : RegNum} {a : Addr} (hi : (∃ x e, i = .stbAbs x e) ∨ ∃ x y b, i = .stbIdx x y b)
    (h : stbTo x a s = .next t) : Effect i s t := by
  unfold stbTo at h
  split at h
  · cases h
  · rename_i u hu
    rw [complete_next h]
    rcases storeByte_ok hu with ⟨_, rfl⟩ | ⟨_, rfl⟩
    · exact .storedByte a _ hi
    · exact .sentByte a _ hi

theorem aligned_effect {i : Instr} {a : Addr} {k : State → Result} (h : aligned a s k = .next t)
    (hk : k s = .next t → Effect i s t) : Effect i s t := by
  unfold aligned at h
  split at h
  · exact raise_effect h
  · exact hk h

theorem sprMove_next {r : Spr} {k : State → Result} (h : sprMove r s k = .next t) :
    (s.msr.um = false ∨ r.kernelOnly = false) ∧ k s = .next t := by
  unfold sprMove at h
  split at h
  · cases h
  · rename_i hn
    split at h
    · cases h
    · refine ⟨?_, h⟩
      cases hu : s.msr.um
      · exact .inl rfl
      · rw [hu] at hn; exact .inr (by simpa using hn)

theorem setIndex_effect {i : Instr} {y : BitVec 2} {v : Long} (h : complete (s.setIndex y v) = .next t) :
    Effect i s t := by
  rw [complete_next h]; exact .quiet s.regs _ s.lr s.deviceLog _ npc_even

/-! ### All instructions -/

theorem computes_of (i : Instr) (h1 : i.unit = .integer ∨ i.unit = .barrel ∨ i.unit = .float)
    (h2 : ∀ x y, i ≠ .loadRR x y) (h3 : ∀ x b, i ≠ .loadRI x b) : Computes i := ⟨h1, h2, h3⟩

/-- Whatever instruction runs, its next state has one of the shapes of `Effect`. -/
theorem exec_effect (i : Instr) (h : exec i s = .next t) : Effect i s t := by
  cases i with
  | imm a =>
    simp only [exec, execImm] at h
    exact unprefixed_effect h fun _ hp h => by
      rw [Host.Outcome.next.injEq] at h; rw [← h]; exact .latched a rfl
  | addRR | adcRR | subRR | sbbRR | andRR | orRR | xorRR | sla | slx | sl0 | sl1 | rl | sra | srx | sr0 | sr1 | rr =>
    simp only [exec, execAddRR, execAdcRR, execSubRR, execSbbRR, execAndRR, execOrRR, execXorRR, execSla,
      execSlx, execSl0, execSl1, execRl, execSra, execSrx, execSr0, execSr1, execRr] at h
    exact unprefixed_effect h fun _ _ h =>
      putResult_effect (computes_of _ (.inl rfl) (by intros; nofun) (by intros; nofun)) h
  | addRI | adcRI | subRI | sbbRI | andRI | orRI | xorRI =>
    simp only [exec, execAddRI, execAdcRI, execSubRI, execSbbRI, execAndRI, execOrRI, execXorRI] at h
    exact putResult_effect (computes_of _ (.inl rfl) (by intros; nofun) (by intros; nofun)) h
  | cmpRR | testRR =>
    simp only [exec, execCmpRR, execTestRR] at h
    exact unprefixed_effect h fun _ _ h =>
      putFlagsOf_effect (computes_of _ (.inl rfl) (by intros; nofun) (by intros; nofun)) h
  | cmpRI | testRI =>
    simp only [exec, execCmpRI, execTestRI] at h
    exact putFlagsOf_effect (computes_of _ (.inl rfl) (by intros; nofun) (by intros; nofun)) h
  | loadRR =>
    simp only [exec, execLoadRR] at h
    exact unprefixed_effect h fun _ _ h => setReg_effect h
  | loadRI =>
    simp only [exec, execLoadRI] at h
    exact setReg_effect h
  | mulRR | mulsRR =>
    simp only [exec, execMulRR, execMulsRR] at h
    exact unprefixed_effect h fun _ _ h =>
      multiply_effect (computes_of _ (.inl rfl) (by intros; nofun) (by intros; nofun)) h
  | mulRI | mulsRI =>
    simp only [exec, execMulRI, execMulsRI] at h
    exact multiply_effect (computes_of _ (.inl rfl) (by intros; nofun) (by intros; nofun)) h
  | divRR =>
    simp only [exec, execDivRR] at h
    exact unprefixed_effect h fun _ _ h =>
      div_effect (computes_of _ (.inl rfl) (by intros; nofun) (by intros; nofun)) h
  | divsRR =>
    simp only [exec, execDivsRR] at h
    exact unprefixed_effect h fun _ _ h =>
      divs_effect (computes_of _ (.inl rfl) (by intros; nofun) (by intros; nofun)) h
  | divRI =>
    simp only [exec, execDivRI] at h
    exact div_effect (computes_of _ (.inl rfl) (by intros; nofun) (by intros; nofun)) h
  | divsRI =>
    simp only [exec, execDivsRI] at h
    exact divs_effect (computes_of _ (.inl rfl) (by intros; nofun) (by intros; nofun)) h
  | bsl | bsr =>
    simp only [exec, execBsl, execBsr] at h
    exact needsUnit_effect h fun h => unprefixed_effect h fun _ _ h =>
      putResult_effect (computes_of _ (.inr (.inl rfl)) (by intros; nofun) (by intros; nofun)) h
  | fmul | fdiv | fadd | fsub | fint | fflt =>
    simp only [exec, execFmul, execFdiv, execFadd, execFsub, execFint, execFflt] at h
    exact floatUnit_effect h fun h =>
      floatTo_effect (computes_of _ (.inr (.inr rfl)) (by intros; nofun) (by intros; nofun)) h
  | fcmp =>
    simp only [exec, execFcmp] at h
    refine floatUnit_effect h fun {u} h => ?_
    rw [complete_next h]
    exact .computed u.regs u.fps u.draws _ _ (.inr (.inr rfl)) (by intros; nofun) (by intros; nofun)
  | jump | jumpNz | jumpZ | jumpNc | jumpC =>
    simp only [exec, execJump, execJumpNz, execJumpZ, execJumpNc, execJumpC] at h
    exact jumpIf_effect (fun _ => absWord_even _) h
  | jumpRel | jumpRelNz | jumpRelZ | jumpRelNc | jumpRelC =>
    simp only [exec, execJumpRel, execJumpRelNz, execJumpRelZ, execJumpRelNc, execJumpRelC] at h
    exact unprefixed_effect h fun _ _ h => jumpIf_effect (relTarget_even _) h
  | call | callNz | callZ | callNc | callC =>
    simp only [exec, execCall, execCallNz, execCallZ, execCallNc, execCallC] at h
    exact callIf_effect (fun _ => absWord_even _) h
  | callRel | callRelNz | callRelZ | callRelNc | callRelC =>
    simp only [exec, execCallRel, execCallRelNz, execCallRelZ, execCallRelNc, execCallRelC] at h
    exact unprefixed_effect h fun _ _ h => callIf_effect (relTarget_even _) h
  | svc =>
    simp only [exec, execSvc] at h
    refine unprefixed_effect h fun _ _ h => ?_
    split at h
    · cases h
    · rename_i he
      rw [Host.Outcome.next.injEq] at h; rw [← h]; exact .supervisor rfl (by simpa using he)
  | ret =>
    simp only [exec, execRet] at h
    refine unprefixed_effect h fun {u} hi _ h => ?_
    rw [Host.Outcome.next.injEq] at h
    rw [← h]
    have e : u.setPc (linkAddr u.lr) =
        { u with regs := u.regs, ids := u.ids, lr := u.lr, deviceLog := u.deviceLog, pc := linkAddr u.lr, immv := false } := by
      rw [← hi]; rfl
    rw [e]; exact .quiet _ _ _ _ _ fun _ => linkAddr_even _
  | reti =>
    simp only [exec, execReti] at h
    refine unprefixed_effect h fun _ _ h => ?_
    obtain ⟨hu, h⟩ := kernelOnly_next h
    rw [Host.Outcome.next.injEq] at h; rw [← h]; exact .fromInterrupt rfl hu
  | rete =>
    simp only [exec, execRete] at h
    refine unprefixed_effect h fun _ _ h => ?_
    obtain ⟨hu, h⟩ := kernelOnly_next h
    rw [Host.Outcome.next.injEq] at h; rw [← h]; exact .fromException rfl hu
  | ldwAbs =>
    simp only [exec, execLdwAbs] at h
    exact ldwFrom_effect h
  | ldwIdx =>
    simp only [exec, execLdwIdx] at h
    exact unprefixed_effect h fun _ _ h => aligned_effect h fun h => ldwFrom_effect h
  | ldbAbs =>
    simp only [exec, execLdbAbs] at h
    exact ldbFrom_effect h
  | ldbIdx =>
    simp only [exec, execLdbIdx] at h
    exact unprefixed_effect h fun _ _ h => ldbFrom_effect h
  | stwAbs =>
    simp only [exec, execStwAbs] at h
    exact stwTo_effect (.inl ⟨_, _, rfl⟩) h
  | stwIdx =>
    simp only [exec, execStwIdx] at h
    exact unprefixed_effect h fun _ _ h => aligned_effect h fun h => stwTo_effect (.inr ⟨_, _, _, rfl⟩) h
  | stbAbs =>
    simp only [exec, execStbAbs] at h
    exact stbTo_effect (.inl ⟨_, _, rfl⟩) h
  | stbIdx =>
    simp only [exec, execStbIdx] at h
    exact unprefixed_effect h fun _ _ h => stbTo_effect (.inr ⟨_, _, _, rfl⟩) h
  | ldspr x y =>
    simp only [exec, execLdspr] at h
    refine unprefixed_effect h fun {u} _ _ h => ?_
    have h := complete_next (sprMove_next h).2
    rw [setPair_regs] at h
    rw [h]; exact .quiet _ u.ids u.lr u.deviceLog _ npc_even
  | stspr x y =>
    simp only [exec, execStspr] at h
    refine unprefixed_effect h fun {u} _ _ h => ?_
    obtain ⟨hu, h⟩ := sprMove_next h
    have h := complete_next h
    have e : (u.writeSpr (sprOf y) (u.pair x)).npc = u.npc := by cases sprOf y <;> rfl
    rw [h, e]; exact .wroteSpr x y _ rfl hu
  | incpr | wincpr | decpr | wdecpr =>
    simp only [exec, execIncpr, execWincpr, execDecpr, execWdecpr] at h
    exact unprefixed_effect h fun _ _ h => setIndex_effect h
  | ldpid x =>
    simp only [exec, execLdpid] at h
    refine needsUnit_effect h fun h => unprefixed_effect h fun _ _ h => ?_
    obtain ⟨hu, h⟩ := kernelOnly_next h
    rw [complete_next h]; exact .wrotePid x _ rfl hu
  | ldtlb x d =>
    simp only [exec, execLdtlb] at h
    refine needsUnit_effect h fun h => unprefixed_effect h fun _ _ h => ?_
    obtain ⟨hu, h⟩ := kernelOnly_next h
    rw [complete_next h]; exact .wroteTlb x d _ rfl hu

end Sys2Proof.Machine
end

