-- ==== Sys2Proof/Laws/PerInstr.lean ====
section
/-! SUPPORT. Families of statements about the instructions as syntax, one lemma per constructor. -/

/-- The word an instruction encodes as matches a row of the opcode map. -/
def Sys2Proof.Laws.EncodeFits.Statement (i : Sys2Proof.Instr) : Prop :=
  ∃ r ∈ Sys2Proof.opcodeMap, r.accepts (Sys2Proof.encode i) = true

namespace Sys2Proof.Laws.EncodeFits

theorem imm (a : BitVec 14) : Statement (.imm a) := by
  refine ⟨opcodeMap[0], List.getElem_mem (by decide), ?_⟩
  show (encode (.imm a) &&& 0xC000#16 == 0x0000#16) = true
  refine beq_iff_eq.2 ((show _ &&& (0x3#2 ++ 0#14 : BitVec 16) = _ from ?_) : _ = 0x0000#16)
  simp only [encode]
  erw [BitVec.and_append]
  simp

theorem addRR (x y : RegNum) : Statement (.addRR x y) := by
  refine ⟨opcodeMap[1], List.getElem_mem (by decide), ?_⟩
  show (encode (.addRR x y) &&& 0xFF00#16 == 0x4000#16) = true
  refine beq_iff_eq.2 ((show _ &&& (0xff#8 ++ 0#4 ++ 0#4 : BitVec 16) = _ from ?_) : _ = 0x4000#16)
  simp only [encode]
  erw [BitVec.and_append, BitVec.and_append]
  simp

theorem addRI (x : RegNum) (b : BitVec 4) : Statement (.addRI x b) := by
  refine ⟨opcodeMap[2], List.getElem_mem (by decide), ?_⟩
  show (encode (.addRI x b) &&& 0xFF00#16 == 0x6000#16) = true
  refine beq_iff_eq.2 ((show _ &&& (0xff#8 ++ 0#4 ++ 0#4 : BitVec 16) = _ from ?_) : _ = 0x6000#16)
  simp only [encode]
  erw [BitVec.and_append, BitVec.and_append]
  simp

theorem adcRR (x y : RegNum) : Statement (.adcRR x y) := by
  refine ⟨opcodeMap[3], List.getElem_mem (by decide), ?_⟩
  show (encode (.adcRR x y) &&& 0xFF00#16 == 0x5000#16) = true
  refine beq_iff_eq.2 ((show _ &&& (0xff#8 ++ 0#4 ++ 0#4 : BitVec 16) = _ from ?_) : _ = 0x5000#16)
  simp only [encode]
  erw [BitVec.and_append, BitVec.and_append]
  simp

theorem adcRI (x : RegNum) (b : BitVec 4) : Statement (.adcRI x b) := by
  refine ⟨opcodeMap[4], List.getElem_mem (by decide), ?_⟩
  show (encode (.adcRI x b) &&& 0xFF00#16 == 0x7000#16) = true
  refine beq_iff_eq.2 ((show _ &&& (0xff#8 ++ 0#4 ++ 0#4 : BitVec 16) = _ from ?_) : _ = 0x7000#16)
  simp only [encode]
  erw [BitVec.and_append, BitVec.and_append]
  simp

theorem subRR (x y : RegNum) : Statement (.subRR x y) := by
  refine ⟨opcodeMap[5], List.getElem_mem (by decide), ?_⟩
  show (encode (.subRR x y) &&& 0xFF00#16 == 0x4800#16) = true
  refine beq_iff_eq.2 ((show _ &&& (0xff#8 ++ 0#4 ++ 0#4 : BitVec 16) = _ from ?_) : _ = 0x4800#16)
  simp only [encode]
  erw [BitVec.and_append, BitVec.and_append]
  simp

theorem subRI (x : RegNum) (b : BitVec 4) : Statement (.subRI x b) := by
  refine ⟨opcodeMap[6], List.getElem_mem (by decide), ?_⟩
  show (encode (.subRI x b) &&& 0xFF00#16 == 0x6800#16) = true
  refine beq_iff_eq.2 ((show _ &&& (0xff#8 ++ 0#4 ++ 0#4 : BitVec 16) = _ from ?_) : _ = 0x6800#16)
  simp only [encode]
  erw [BitVec.and_append, BitVec.and_append]
  simp

theorem sbbRR (x y : RegNum) : Statement (.sbbRR x y) := by
  refine ⟨opcodeMap[7], List.getElem_mem (by decide), ?_⟩
  show (encode (.sbbRR x y) &&& 0xFF00#16 == 0x5800#16) = true
  refine beq_iff_eq.2 ((show _ &&& (0xff#8 ++ 0#4 ++ 0#4 : BitVec 16) = _ from ?_) : _ = 0x5800#16)
  simp only [encode]
  erw [BitVec.and_append, BitVec.and_append]
  simp

theorem sbbRI (x : RegNum) (b : BitVec 4) : Statement (.sbbRI x b) := by
  refine ⟨opcodeMap[8], List.getElem_mem (by decide), ?_⟩
  show (encode (.sbbRI x b) &&& 0xFF00#16 == 0x7800#16) = true
  refine beq_iff_eq.2 ((show _ &&& (0xff#8 ++ 0#4 ++ 0#4 : BitVec 16) = _ from ?_) : _ = 0x7800#16)
  simp only [encode]
  erw [BitVec.and_append, BitVec.and_append]
  simp

theorem andRR (x y : RegNum) : Statement (.andRR x y) := by
  refine ⟨opcodeMap[9], List.getElem_mem (by decide), ?_⟩
  show (encode (.andRR x y) &&& 0xFF00#16 == 0x4400#16) = true
  refine beq_iff_eq.2 ((show _ &&& (0xff#8 ++ 0#4 ++ 0#4 : BitVec 16) = _ from ?_) : _ = 0x4400#16)
  simp only [encode]
  erw [BitVec.and_append, BitVec.and_append]
  simp

theorem andRI (x : RegNum) (b : BitVec 4) : Statement (.andRI x b) := by
  refine ⟨opcodeMap[10], List.getElem_mem (by decide), ?_⟩
  show (encode (.andRI x b) &&& 0xFF00#16 == 0x6400#16) = true
  refine beq_iff_eq.2 ((show _ &&& (0xff#8 ++ 0#4 ++ 0#4 : BitVec 16) = _ from ?_) : _ = 0x6400#16)
  simp only [encode]
  erw [BitVec.and_append, BitVec.and_append]
  simp

theorem orRR (x y : RegNum) : Statement (.orRR x y) := by
  refine ⟨opcodeMap[11], List.getElem_mem (by decide), ?_⟩
  show (encode (.orRR x y) &&& 0xFF00#16 == 0x5400#16) = true
  refine beq_iff_eq.2 ((show _ &&& (0xff#8 ++ 0#4 ++ 0#4 : BitVec 16) = _ from ?_) : _ = 0x5400#16)
  simp only [encode]
  erw [BitVec.and_append, BitVec.and_append]
  simp

theorem orRI (x : RegNum) (b : BitVec 4) : Statement (.orRI x b) := by
  refine ⟨opcodeMap[12], List.getElem_mem (by decide), ?_⟩
  show (encode (.orRI x b) &&& 0xFF00#16 == 0x7400#16) = true
  refine beq_iff_eq.2 ((show _ &&& (0xff#8 ++ 0#4 ++ 0#4 : BitVec 16) = _ from ?_) : _ = 0x7400#16)
  simp only [encode]
  erw [BitVec.and_append, BitVec.and_append]
  simp

theorem xorRR (x y : RegNum) : Statement (.xorRR x y) := by
  refine ⟨opcodeMap[13], List.getElem_mem (by decide), ?_⟩
  show (encode (.xorRR x y) &&& 0xFF00#16 == 0x4C00#16) = true
  refine beq_iff_eq.2 ((show _ &&& (0xff#8 ++ 0#4 ++ 0#4 : BitVec 16) = _ from ?_) : _ = 0x4C00#16)
  simp only [encode]
  erw [BitVec.and_append, BitVec.and_append]
  simp

theorem xorRI (x : RegNum) (b : BitVec 4) : Statement (.xorRI x b) := by
  refine ⟨opcodeMap[14], List.getElem_mem (by decide), ?_⟩
  show (encode (.xorRI x b) &&& 0xFF00#16 == 0x6C00#16) = true
  refine beq_iff_eq.2 ((show _ &&& (0xff#8 ++ 0#4 ++ 0#4 : BitVec 16) = _ from ?_) : _ = 0x6C00#16)
  simp only [encode]
  erw [BitVec.and_append, BitVec.and_append]
  simp

theorem sla (x : RegNum) : Statement (.sla x) := by
  refine ⟨opcodeMap[15], List.getElem_mem (by decide), ?_⟩
  show (encode (.sla x) &&& 0xFF0F#16 == 0x5C00#16) = true
  refine beq_iff_eq.2 ((show _ &&& (0xff#8 ++ 0#4 ++ 0xf#4 : BitVec 16) = _ from ?_) : _ = 0x5C00#16)
  simp only [encode]
  erw [BitVec.and_append, BitVec.and_append]
  simp

theorem slx (x : RegNum) : Statement (.slx x) := by
  refine ⟨opcodeMap[16], List.getElem_mem (by decide), ?_⟩
  show (encode (.slx x) &&& 0xFF0F#16 == 0x5C01#16) = true
  refine beq_iff_eq.2 ((show _ &&& (0xff#8 ++ 0#4 ++ 0xf#4 : BitVec 16) = _ from ?_) : _ = 0x5C01#16)
  simp only [encode]
  erw [BitVec.and_append, BitVec.and_append]
  simp

theorem sl0 (x : RegNum) : Statement (.sl0 x) := by
  refine ⟨opcodeMap[17], List.getElem_mem (by decide), ?_⟩
  show (encode (.sl0 x) &&& 0xFF0F#16 == 0x5C02#16) = true
  refine beq_iff_eq.2 ((show _ &&& (0xff#8 ++ 0#4 ++ 0xf#4 : BitVec 16) = _ from ?_) : _ = 0x5C02#16)
  simp only [encode]
  erw [BitVec.and_append, BitVec.and_append]
  simp

theorem sl1 (x : RegNum) : Statement (.sl1 x) := by
  refine ⟨opcodeMap[18], List.getElem_mem (by decide), ?_⟩
  show (encode (.sl1 x) &&& 0xFF0F#16 == 0x5C03#16) = true
  refine beq_iff_eq.2 ((show _ &&& (0xff#8 ++ 0#4 ++ 0xf#4 : BitVec 16) = _ from ?_) : _ = 0x5C03#16)
  simp only [encode]
  erw [BitVec.and_append, BitVec.and_append]
  simp

theorem rl (x : RegNum) : Statement (.rl x) := by
  refine ⟨opcodeMap[19], List.getElem_mem (by decide), ?_⟩
  show (encode (.rl x) &&& 0xFF0F#16 == 0x5C04#16) = true
  refine beq_iff_eq.2 ((show _ &&& (0xff#8 ++ 0#4 ++ 0xf#4 : BitVec 16) = _ from ?_) : _ = 0x5C04#16)
  simp only [encode]
  erw [BitVec.and_append, BitVec.and_append]
  simp

theorem sra (x : RegNum) : Statement (.sra x) := by
  refine ⟨opcodeMap[20], List.getElem_mem (by decide), ?_⟩
  show (encode (.sra x) &&& 0xFF0F#16 == 0x7C00#16) = true
  refine beq_iff_eq.2 ((show _ &&& (0xff#8 ++ 0#4 ++ 0xf#4 : BitVec 16) = _ from ?_) : _ = 0x7C00#16)
  simp only [encode]
  erw [BitVec.and_append, BitVec.and_append]
  simp

theorem srx (x : RegNum) : Statement (.srx x) := by
  refine ⟨opcodeMap[21], List.getElem_mem (by decide), ?_⟩
  show (encode (.srx x) &&& 0xFF0F#16 == 0x7C01#16) = true
  refine beq_iff_eq.2 ((show _ &&& (0xff#8 ++ 0#4 ++ 0xf#4 : BitVec 16) = _ from ?_) : _ = 0x7C01#16)
  simp only [encode]
  erw [BitVec.and_append, BitVec.and_append]
  simp

theorem sr0 (x : RegNum) : Statement (.sr0 x) := by
  refine ⟨opcodeMap[22], List.getElem_mem (by decide), ?_⟩
  show (encode (.sr0 x) &&& 0xFF0F#16 == 0x7C02#16) = true
  refine beq_iff_eq.2 ((show _ &&& (0xff#8 ++ 0#4 ++ 0xf#4 : BitVec 16) = _ from ?_) : _ = 0x7C02#16)
  simp only [encode]
  erw [BitVec.and_append, BitVec.and_append]
  simp

theorem sr1 (x : RegNum) : Statement (.sr1 x) := by
  refine ⟨opcodeMap[23], List.getElem_mem (by decide), ?_⟩
  show (encode (.sr1 x) &&& 0xFF0F#16 == 0x7C03#16) = true
  refine beq_iff_eq.2 ((show _ &&& (0xff#8 ++ 0#4 ++ 0xf#4 : BitVec 16) = _ from ?_) : _ = 0x7C03#16)
  simp only [encode]
  erw [BitVec.and_append, BitVec.and_append]
  simp

theorem rr (x : RegNum) : Statement (.rr x) := by
  refine ⟨opcodeMap[24], List.getElem_mem (by decide), ?_⟩
  show (encode (.rr x) &&& 0xFF0F#16 == 0x7C04#16) = true
  refine beq_iff_eq.2 ((show _ &&& (0xff#8 ++ 0#4 ++ 0xf#4 : BitVec 16) = _ from ?_) : _ = 0x7C04#16)
  simp only [encode]
  erw [BitVec.and_append, BitVec.and_append]
  simp

theorem cmpRR (x y : RegNum) : Statement (.cmpRR x y) := by
  refine ⟨opcodeMap[25], List.getElem_mem (by decide), ?_⟩
  show (encode (.cmpRR x y) &&& 0xFF00#16 == 0x4200#16) = true
  refine beq_iff_eq.2 ((show _ &&& (0xff#8 ++ 0#4 ++ 0#4 : BitVec 16) = _ from ?_) : _ = 0x4200#16)
  simp only [encode]
  erw [BitVec.and_append, BitVec.and_append]
  simp

theorem cmpRI (x : RegNum) (b : BitVec 4) : Statement (.cmpRI x b) := by
  refine ⟨opcodeMap[26], List.getElem_mem (by decide), ?_⟩
  show (encode (.cmpRI x b) &&& 0xFF00#16 == 0x6200#16) = true
  refine beq_iff_eq.2 ((show _ &&& (0xff#8 ++ 0#4 ++ 0#4 : BitVec 16) = _ from ?_) : _ = 0x6200#16)
  simp only [encode]
  erw [BitVec.and_append, BitVec.and_append]
  simp

theorem testRR (x y : RegNum) : Statement (.testRR x y) := by
  refine ⟨opcodeMap[27], List.getElem_mem (by decide), ?_⟩
  show (encode (.testRR x y) &&& 0xFF00#16 == 0x5200#16) = true
  refine beq_iff_eq.2 ((show _ &&& (0xff#8 ++ 0#4 ++ 0#4 : BitVec 16) = _ from ?_) : _ = 0x5200#16)
  simp only [encode]
  erw [BitVec.and_append, BitVec.and_append]
  simp

theorem testRI (x : RegNum) (b : BitVec 4) : Statement (.testRI x b) := by
  refine ⟨opcodeMap[28], List.getElem_mem (by decide), ?_⟩
  show (encode (.testRI x b) &&& 0xFF00#16 == 0x7200#16) = true
  refine beq_iff_eq.2 ((show _ &&& (0xff#8 ++ 0#4 ++ 0#4 : BitVec 16) = _ from ?_) : _ = 0x7200#16)
  simp only [encode]
  erw [BitVec.and_append, BitVec.and_append]
  simp

theorem loadRR (x y : RegNum) : Statement (.loadRR x y) := by
  refine ⟨opcodeMap[29], List.getElem_mem (by decide), ?_⟩
  show (encode (.loadRR x y) &&& 0xFF00#16 == 0x4A00#16) = true
  refine beq_iff_eq.2 ((show _ &&& (0xff#8 ++ 0#4 ++ 0#4 : BitVec 16) = _ from ?_) : _ = 0x4A00#16)
  simp only [encode]
  erw [BitVec.and_append, BitVec.and_append]
  simp

theorem loadRI (x : RegNum) (b : BitVec 4) : Statement (.loadRI x b) := by
  refine ⟨opcodeMap[30], List.getElem_mem (by decide), ?_⟩
  show (encode (.loadRI x b) &&& 0xFF00#16 == 0x6A00#16) = true
  refine beq_iff_eq.2 ((show _ &&& (0xff#8 ++ 0#4 ++ 0#4 : BitVec 16) = _ from ?_) : _ = 0x6A00#16)
  simp only [encode]
  erw [BitVec.and_append, BitVec.and_append]
  simp

theorem mulRR (x y : RegNum) : Statement (.mulRR x y) := by
  refine ⟨opcodeMap[31], List.getElem_mem (by decide), ?_⟩
  show (encode (.mulRR x y) &&& 0xFF00#16 == 0x4600#16) = true
  refine beq_iff_eq.2 ((show _ &&& (0xff#8 ++ 0#4 ++ 0#4 : BitVec 16) = _ from ?_) : _ = 0x4600#16)
  simp only [encode]
  erw [BitVec.and_append, BitVec.and_append]
  simp

theorem mulRI (x : RegNum) (b : BitVec 4) : Statement (.mulRI x b) := by
  refine ⟨opcodeMap[32], List.getElem_mem (by decide), ?_⟩
  show (encode (.mulRI x b) &&& 0xFF00#16 == 0x6600#16) = true
  refine beq_iff_eq.2 ((show _ &&& (0xff#8 ++ 0#4 ++ 0#4 : BitVec 16) = _ from ?_) : _ = 0x6600#16)
  simp only [encode]
  erw [BitVec.and_append, BitVec.and_append]
  simp

theorem mulsRR (x y : RegNum) : Statement (.mulsRR x y) := by
  refine ⟨opcodeMap[33], List.getElem_mem (by decide), ?_⟩
  show (encode (.mulsRR x y) &&& 0xFF00#16 == 0x5600#16) = true
  refine beq_iff_eq.2 ((show _ &&& (0xff#8 ++ 0#4 ++ 0#4 : BitVec 16) = _ from ?_) : _ = 0x5600#16)
  simp only [encode]
  erw [BitVec.and_append, BitVec.and_append]
  simp

theorem mulsRI (x : RegNum) (b : BitVec 4) : Statement (.mulsRI x b) := by
  refine ⟨opcodeMap[34], List.getElem_mem (by decide), ?_⟩
  show (encode (.mulsRI x b) &&& 0xFF00#16 == 0x7600#16) = true
  refine beq_iff_eq.2 ((show _ &&& (0xff#8 ++ 0#4 ++ 0#4 : BitVec 16) = _ from ?_) : _ = 0x7600#16)
  simp only [encode]
  erw [BitVec.and_append, BitVec.and_append]
  simp

theorem divRR (x y : RegNum) : Statement (.divRR x y) := by
  refine ⟨opcodeMap[35], List.getElem_mem (by decide), ?_⟩
  show (encode (.divRR x y) &&& 0xFF00#16 == 0x4E00#16) = true
  refine beq_iff_eq.2 ((show _ &&& (0xff#8 ++ 0#4 ++ 0#4 : BitVec 16) = _ from ?_) : _ = 0x4E00#16)
  simp only [encode]
  erw [BitVec.and_append, BitVec.and_append]
  simp

theorem divRI (x : RegNum) (b : BitVec 4) : Statement (.divRI x b) := by
  refine ⟨opcodeMap[36], List.getElem_mem (by decide), ?_⟩
  show (encode (.divRI x b) &&& 0xFF00#16 == 0x6E00#16) = true
  refine beq_iff_eq.2 ((show _ &&& (0xff#8 ++ 0#4 ++ 0#4 : BitVec 16) = _ from ?_) : _ = 0x6E00#16)
  simp only [encode]
  erw [BitVec.and_append, BitVec.and_append]
  simp

theorem divsRR (x y : RegNum) : Statement (.divsRR x y) := by
  refine ⟨opcodeMap[37], List.getElem_mem (by decide), ?_⟩
  show (encode (.divsRR x y) &&& 0xFF00#16 == 0x5E00#16) = true
  refine beq_iff_eq.2 ((show _ &&& (0xff#8 ++ 0#4 ++ 0#4 : BitVec 16) = _ from ?_) : _ = 0x5E00#16)
  simp only [encode]
  erw [BitVec.and_append, BitVec.and_append]
  simp

theorem divsRI (x : RegNum) (b : BitVec 4) : Statement (.divsRI x b) := by
  refine ⟨opcodeMap[38], List.getElem_mem (by decide), ?_⟩
  show (encode (.divsRI x b) &&& 0xFF00#16 == 0x7E00#16) = true
  refine beq_iff_eq.2 ((show _ &&& (0xff#8 ++ 0#4 ++ 0#4 : BitVec 16) = _ from ?_) : _ = 0x7E00#16)
  simp only [encode]
  erw [BitVec.and_append, BitVec.and_append]
  simp

theorem bsl (x : RegNum) (b : BitVec 4) : Statement (.bsl x b) := by
  refine ⟨opcodeMap[39], List.getElem_mem (by decide), ?_⟩
  show (encode (.bsl x b) &&& 0xFF00#16 == 0x4100#16) = true
  refine beq_iff_eq.2 ((show _ &&& (0xff#8 ++ 0#4 ++ 0#4 : BitVec 16) = _ from ?_) : _ = 0x4100#16)
  simp only [encode]
  erw [BitVec.and_append, BitVec.and_append]
  simp

theorem bsr (x : RegNum) (b : BitVec 4) : Statement (.bsr x b) := by
  refine ⟨opcodeMap[40], List.getElem_mem (by decide), ?_⟩
  show (encode (.bsr x b) &&& 0xFF00#16 == 0x6100#16) = true
  refine beq_iff_eq.2 ((show _ &&& (0xff#8 ++ 0#4 ++ 0#4 : BitVec 16) = _ from ?_) : _ = 0x6100#16)
  simp only [encode]
  erw [BitVec.and_append, BitVec.and_append]
  simp

theorem fmul (u v : BitVec 2) : Statement (.fmul u v) := by
  refine ⟨opcodeMap[41], List.getElem_mem (by decide), ?_⟩
  show (encode (.fmul u v) &&& 0xFFF0#16 == 0x4300#16) = true
  refine beq_iff_eq.2 ((show _ &&& (0xfff#12 ++ 0#2 ++ 0#2 : BitVec 16) = _ from ?_) : _ = 0x4300#16)
  simp only [encode]
  erw [BitVec.and_append, BitVec.and_append]
  simp

theorem fdiv (u v : BitVec 2) : Statement (.fdiv u v) := by
  refine ⟨opcodeMap[42], List.getElem_mem (by decide), ?_⟩
  show (encode (.fdiv u v) &&& 0xFFF0#16 == 0x6300#16) = true
  refine beq_iff_eq.2 ((show _ &&& (0xfff#12 ++ 0#2 ++ 0#2 : BitVec 16) = _ from ?_) : _ = 0x6300#16)
  simp only [encode]
  erw [BitVec.and_append, BitVec.and_append]
  simp

theorem fadd (u v : BitVec 2) : Statement (.fadd u v) := by
  refine ⟨opcodeMap[43], List.getElem_mem (by decide), ?_⟩
  show (encode (.fadd u v) &&& 0xFFF0#16 == 0x5300#16) = true
  refine beq_iff_eq.2 ((show _ &&& (0xfff#12 ++ 0#2 ++ 0#2 : BitVec 16) = _ from ?_) : _ = 0x5300#16)
  simp only [encode]
  erw [BitVec.and_append, BitVec.and_append]
  simp

theorem fsub (u v : BitVec 2) : Statement (.fsub u v) := by
  refine ⟨opcodeMap[44], List.getElem_mem (by decide), ?_⟩
  show (encode (.fsub u v) &&& 0xFFF0#16 == 0x7300#16) = true
  refine beq_iff_eq.2 ((show _ &&& (0xfff#12 ++ 0#2 ++ 0#2 : BitVec 16) = _ from ?_) : _ = 0x7300#16)
  simp only [encode]
  erw [BitVec.and_append, BitVec.and_append]
  simp

theorem fcmp (u v : BitVec 2) : Statement (.fcmp u v) := by
  refine ⟨opcodeMap[45], List.getElem_mem (by decide), ?_⟩
  show (encode (.fcmp u v) &&& 0xFFF0#16 == 0x4B00#16) = true
  refine beq_iff_eq.2 ((show _ &&& (0xfff#12 ++ 0#2 ++ 0#2 : BitVec 16) = _ from ?_) : _ = 0x4B00#16)
  simp only [encode]
  erw [BitVec.and_append, BitVec.and_append]
  simp

theorem fint (u : BitVec 2) : Statement (.fint u) := by
  refine ⟨opcodeMap[46], List.getElem_mem (by decide), ?_⟩
  show (encode (.fint u) &&& 0xFFF3#16 == 0x6B00#16) = true
  refine beq_iff_eq.2 ((show _ &&& (0xfff#12 ++ 0#2 ++ 0x3#2 : BitVec 16) = _ from ?_) : _ = 0x6B00#16)
  simp only [encode]
  erw [BitVec.and_append, BitVec.and_append]
  simp

theorem fflt (u : BitVec 2) : Statement (.fflt u) := by
  refine ⟨opcodeMap[47], List.getElem_mem (by decide), ?_⟩
  show (encode (.fflt u) &&& 0xFFF3#16 == 0x5B00#16) = true
  refine beq_iff_eq.2 ((show _ &&& (0xfff#12 ++ 0#2 ++ 0x3#2 : BitVec 16) = _ from ?_) : _ = 0x5B00#16)
  simp only [encode]
  erw [BitVec.and_append, BitVec.and_append]
  simp

theorem jump (c : BitVec 9) : Statement (.jump c) := by
  refine ⟨opcodeMap[48], List.getElem_mem (by decide), ?_⟩
  show (encode (.jump c) &&& 0xFE00#16 == 0x8400#16) = true
  refine beq_iff_eq.2 ((show _ &&& (0x7f#7 ++ 0#9 : BitVec 16) = _ from ?_) : _ = 0x8400#16)
  simp only [encode]
  erw [BitVec.and_append]
  simp

theorem jumpNz (c : BitVec 9) : Statement (.jumpNz c) := by
  refine ⟨opcodeMap[49], List.getElem_mem (by decide), ?_⟩
  show (encode (.jumpNz c) &&& 0xFE00#16 == 0x8000#16) = true
  refine beq_iff_eq.2 ((show _ &&& (0x7f#7 ++ 0#9 : BitVec 16) = _ from ?_) : _ = 0x8000#16)
  simp only [encode]
  erw [BitVec.and_append]
  simp

theorem jumpZ (c : BitVec 9) : Statement (.jumpZ c) := by
  refine ⟨opcodeMap[50], List.getElem_mem (by decide), ?_⟩
  show (encode (.jumpZ c) &&& 0xFE00#16 == 0x9000#16) = true
  refine beq_iff_eq.2 ((show _ &&& (0x7f#7 ++ 0#9 : BitVec 16) = _ from ?_) : _ = 0x9000#16)
  simp only [encode]
  erw [BitVec.and_append]
  simp

theorem jumpNc (c : BitVec 9) : Statement (.jumpNc c) := by
  refine ⟨opcodeMap[51], List.getElem_mem (by decide), ?_⟩
  show (encode (.jumpNc c) &&& 0xFE00#16 == 0x8800#16) = true
  refine beq_iff_eq.2 ((show _ &&& (0x7f#7 ++ 0#9 : BitVec 16) = _ from ?_) : _ = 0x8800#16)
  simp only [encode]
  erw [BitVec.and_append]
  simp

theorem jumpC (c : BitVec 9) : Statement (.jumpC c) := by
  refine ⟨opcodeMap[52], List.getElem_mem (by decide), ?_⟩
  show (encode (.jumpC c) &&& 0xFE00#16 == 0x9800#16) = true
  refine beq_iff_eq.2 ((show _ &&& (0x7f#7 ++ 0#9 : BitVec 16) = _ from ?_) : _ = 0x9800#16)
  simp only [encode]
  erw [BitVec.and_append]
  simp

theorem jumpRel (c : BitVec 9) : Statement (.jumpRel c) := by
  refine ⟨opcodeMap[53], List.getElem_mem (by decide), ?_⟩
  show (encode (.jumpRel c) &&& 0xFE00#16 == 0x8600#16) = true
  refine beq_iff_eq.2 ((show _ &&& (0x7f#7 ++ 0#9 : BitVec 16) = _ from ?_) : _ = 0x8600#16)
  simp only [encode]
  erw [BitVec.and_append]
  simp

theorem jumpRelNz (c : BitVec 9) : Statement (.jumpRelNz c) := by
  refine ⟨opcodeMap[54], List.getElem_mem (by decide), ?_⟩
  show (encode (.jumpRelNz c) &&& 0xFE00#16 == 0x8200#16) = true
  refine beq_iff_eq.2 ((show _ &&& (0x7f#7 ++ 0#9 : BitVec 16) = _ from ?_) : _ = 0x8200#16)
  simp only [encode]
  erw [BitVec.and_append]
  simp

theorem jumpRelZ (c : BitVec 9) : Statement (.jumpRelZ c) := by
  refine ⟨opcodeMap[55], List.getElem_mem (by decide), ?_⟩
  show (encode (.jumpRelZ c) &&& 0xFE00#16 == 0x9200#16) = true
  refine beq_iff_eq.2 ((show _ &&& (0x7f#7 ++ 0#9 : BitVec 16) = _ from ?_) : _ = 0x9200#16)
  simp only [encode]
  erw [BitVec.and_append]
  simp

theorem jumpRelNc (c : BitVec 9) : Statement (.jumpRelNc c) := by
  refine ⟨opcodeMap[56], List.getElem_mem (by decide), ?_⟩
  show (encode (.jumpRelNc c) &&& 0xFE00#16 == 0x8A00#16) = true
  refine beq_iff_eq.2 ((show _ &&& (0x7f#7 ++ 0#9 : BitVec 16) = _ from ?_) : _ = 0x8A00#16)
  simp only [encode]
  erw [BitVec.and_append]
  simp

theorem jumpRelC (c : BitVec 9) : Statement (.jumpRelC c) := by
  refine ⟨opcodeMap[57], List.getElem_mem (by decide), ?_⟩
  show (encode (.jumpRelC c) &&& 0xFE00#16 == 0x9A00#16) = true
  refine beq_iff_eq.2 ((show _ &&& (0x7f#7 ++ 0#9 : BitVec 16) = _ from ?_) : _ = 0x9A00#16)
  simp only [encode]
  erw [BitVec.and_append]
  simp

theorem call (c : BitVec 9) : Statement (.call c) := by
  refine ⟨opcodeMap[58], List.getElem_mem (by decide), ?_⟩
  show (encode (.call c) &&& 0xFE00#16 == 0xA400#16) = true
  refine beq_iff_eq.2 ((show _ &&& (0x7f#7 ++ 0#9 : BitVec 16) = _ from ?_) : _ = 0xA400#16)
  simp only [encode]
  erw [BitVec.and_append]
  simp

theorem callNz (c : BitVec 9) : Statement (.callNz c) := by
  refine ⟨opcodeMap[59], List.getElem_mem (by decide), ?_⟩
  show (encode (.callNz c) &&& 0xFE00#16 == 0xA000#16) = true
  refine beq_iff_eq.2 ((show _ &&& (0x7f#7 ++ 0#9 : BitVec 16) = _ from ?_) : _ = 0xA000#16)
  simp only [encode]
  erw [BitVec.and_append]
  simp

theorem callZ (c : BitVec 9) : Statement (.callZ c) := by
  refine ⟨opcodeMap[60], List.getElem_mem (by decide), ?_⟩
  show (encode (.callZ c) &&& 0xFE00#16 == 0xB000#16) = true
  refine beq_iff_eq.2 ((show _ &&& (0x7f#7 ++ 0#9 : BitVec 16) = _ from ?_) : _ = 0xB000#16)
  simp only [encode]
  erw [BitVec.and_append]
  simp

theorem callNc (c : BitVec 9) : Statement (.callNc c) := by
  refine ⟨opcodeMap[61], List.getElem_mem (by decide), ?_⟩
  show (encode (.callNc c) &&& 0xFE00#16 == 0xA800#16) = true
  refine beq_iff_eq.2 ((show _ &&& (0x7f#7 ++ 0#9 : BitVec 16) = _ from ?_) : _ = 0xA800#16)
  simp only [encode]
  erw [BitVec.and_append]
  simp

theorem callC (c : BitVec 9) : Statement (.callC c) := by
  refine ⟨opcodeMap[62], List.getElem_mem (by decide), ?_⟩
  show (encode (.callC c) &&& 0xFE00#16 == 0xB800#16) = true
  refine beq_iff_eq.2 ((show _ &&& (0x7f#7 ++ 0#9 : BitVec 16) = _ from ?_) : _ = 0xB800#16)
  simp only [encode]
  erw [BitVec.and_append]
  simp

theorem callRel (c : BitVec 9) : Statement (.callRel c) := by
  refine ⟨opcodeMap[63], List.getElem_mem (by decide), ?_⟩
  show (encode (.callRel c) &&& 0xFE00#16 == 0xA600#16) = true
  refine beq_iff_eq.2 ((show _ &&& (0x7f#7 ++ 0#9 : BitVec 16) = _ from ?_) : _ = 0xA600#16)
  simp only [encode]
  erw [BitVec.and_append]
  simp

theorem callRelNz (c : BitVec 9) : Statement (.callRelNz c) := by
  refine ⟨opcodeMap[64], List.getElem_mem (by decide), ?_⟩
  show (encode (.callRelNz c) &&& 0xFE00#16 == 0xA200#16) = true
  refine beq_iff_eq.2 ((show _ &&& (0x7f#7 ++ 0#9 : BitVec 16) = _ from ?_) : _ = 0xA200#16)
  simp only [encode]
  erw [BitVec.and_append]
  simp

theorem callRelZ (c : BitVec 9) : Statement (.callRelZ c) := by
  refine ⟨opcodeMap[65], List.getElem_mem (by decide), ?_⟩
  show (encode (.callRelZ c) &&& 0xFE00#16 == 0xB200#16) = true
  refine beq_iff_eq.2 ((show _ &&& (0x7f#7 ++ 0#9 : BitVec 16) = _ from ?_) : _ = 0xB200#16)
  simp only [encode]
  erw [BitVec.and_append]
  simp

theorem callRelNc (c : BitVec 9) : Statement (.callRelNc c) := by
  refine ⟨opcodeMap[66], List.getElem_mem (by decide), ?_⟩
  show (encode (.callRelNc c) &&& 0xFE00#16 == 0xAA00#16) = true
  refine beq_iff_eq.2 ((show _ &&& (0x7f#7 ++ 0#9 : BitVec 16) = _ from ?_) : _ = 0xAA00#16)
  simp only [encode]
  erw [BitVec.and_append]
  simp

theorem callRelC (c : BitVec 9) : Statement (.callRelC c) := by
  refine ⟨opcodeMap[67], List.getElem_mem (by decide), ?_⟩
  show (encode (.callRelC c) &&& 0xFE00#16 == 0xBA00#16) = true
  refine beq_iff_eq.2 ((show _ &&& (0x7f#7 ++ 0#9 : BitVec 16) = _ from ?_) : _ = 0xBA00#16)
  simp only [encode]
  erw [BitVec.and_append]
  simp

theorem svc : Statement .svc := by
  refine ⟨opcodeMap[68], List.getElem_mem (by decide), ?_⟩
  show (encode .svc &&& 0xFFFF#16 == 0x9E00#16) = true
  decide

theorem ret : Statement .ret := by
  refine ⟨opcodeMap[69], List.getElem_mem (by decide), ?_⟩
  show (encode .ret &&& 0xFFFF#16 == 0xBE00#16) = true
  decide

theorem reti : Statement .reti := by
  refine ⟨opcodeMap[70], List.getElem_mem (by decide), ?_⟩
  show (encode .reti &&& 0xFFFF#16 == 0xBE01#16) = true
  decide

theorem rete : Statement .rete := by
  refine ⟨opcodeMap[71], List.getElem_mem (by decide), ?_⟩
  show (encode .rete &&& 0xFFFF#16 == 0xBE02#16) = true
  decide

theorem ldwAbs (x : RegNum) (c : BitVec 9) : Statement (.ldwAbs x c) := by
  refine ⟨opcodeMap[72], List.getElem_mem (by decide), ?_⟩
  show (encode (.ldwAbs x c) &&& 0xFC00#16 == 0xC000#16) = true
  refine beq_iff_eq.2 ((show _ &&& (0x3f#6 ++ 0#1 ++ 0#9 : BitVec 16) = _ from ?_) : _ = 0xC000#16)
  simp only [encode]
  erw [BitVec.and_append, BitVec.and_append]
  simp

theorem ldwIdx (x : RegNum) (y : BitVec 2) (b : BitVec 4) : Statement (.ldwIdx x y b) := by
  refine ⟨opcodeMap[73], List.getElem_mem (by decide), ?_⟩
  show (encode (.ldwIdx x y b) &&& 0xFC00#16 == 0xC400#16) = true
  refine beq_iff_eq.2 ((show _ &&& (0x3f#6 ++ 0#4 ++ 0#2 ++ 0#4 : BitVec 16) = _ from ?_) : _ = 0xC400#16)
  simp only [encode]
  erw [BitVec.and_append, BitVec.and_append, BitVec.and_append]
  simp

theorem ldspr (x : BitVec 3) (y : BitVec 4) : Statement (.ldspr x y) := by
  refine ⟨opcodeMap[74], List.getElem_mem (by decide), ?_⟩
  show (encode (.ldspr x y) &&& 0xFC70#16 == 0xC800#16) = true
  refine beq_iff_eq.2 ((show _ &&& (0x3f#6 ++ 0#3 ++ 0x7#3 ++ 0#4 : BitVec 16) = _ from ?_) : _ = 0xC800#16)
  simp only [encode]
  erw [BitVec.and_append, BitVec.and_append, BitVec.and_append]
  simp

theorem incpr (y : BitVec 2) : Statement (.incpr y) := by
  refine ⟨opcodeMap[75], List.getElem_mem (by decide), ?_⟩
  show (encode (.incpr y) &&& 0xFFFC#16 == 0xC820#16) = true
  refine beq_iff_eq.2 ((show _ &&& (0x3fff#14 ++ 0#2 : BitVec 16) = _ from ?_) : _ = 0xC820#16)
  simp only [encode]
  erw [BitVec.and_append]
  simp

theorem wincpr (y : BitVec 2) : Statement (.wincpr y) := by
  refine ⟨opcodeMap[76], List.getElem_mem (by decide), ?_⟩
  show (encode (.wincpr y) &&& 0xFFFC#16 == 0xC860#16) = true
  refine beq_iff_eq.2 ((show _ &&& (0x3fff#14 ++ 0#2 : BitVec 16) = _ from ?_) : _ = 0xC860#16)
  simp only [encode]
  erw [BitVec.and_append]
  simp

theorem decpr (y : BitVec 2) : Statement (.decpr y) := by
  refine ⟨opcodeMap[77], List.getElem_mem (by decide), ?_⟩
  show (encode (.decpr y) &&& 0xFFFC#16 == 0xC830#16) = true
  refine beq_iff_eq.2 ((show _ &&& (0x3fff#14 ++ 0#2 : BitVec 16) = _ from ?_) : _ = 0xC830#16)
  simp only [encode]
  erw [BitVec.and_append]
  simp

theorem wdecpr (y : BitVec 2) : Statement (.wdecpr y) := by
  refine ⟨opcodeMap[78], List.getElem_mem (by decide), ?_⟩
  show (encode (.wdecpr y) &&& 0xFFFC#16 == 0xC870#16) = true
  refine beq_iff_eq.2 ((show _ &&& (0x3fff#14 ++ 0#2 : BitVec 16) = _ from ?_) : _ = 0xC870#16)
  simp only [encode]
  erw [BitVec.and_append]
  simp

theorem ldpid (x : RegNum) : Statement (.ldpid x) := by
  refine ⟨opcodeMap[79], List.getElem_mem (by decide), ?_⟩
  show (encode (.ldpid x) &&& 0xFF0F#16 == 0xCC00#16) = true
  refine beq_iff_eq.2 ((show _ &&& (0xff#8 ++ 0#4 ++ 0xf#4 : BitVec 16) = _ from ?_) : _ = 0xCC00#16)
  simp only [encode]
  erw [BitVec.and_append, BitVec.and_append]
  simp

theorem ldtlb (x : BitVec 3) (d : BitVec 5) : Statement (.ldtlb x d) := by
  refine ⟨opcodeMap[80], List.getElem_mem (by decide), ?_⟩
  show (encode (.ldtlb x d) &&& 0xFF00#16 == 0xCE00#16) = true
  refine beq_iff_eq.2 ((show _ &&& (0xff#8 ++ 0#3 ++ 0#5 : BitVec 16) = _ from ?_) : _ = 0xCE00#16)
  simp only [encode]
  erw [BitVec.and_append, BitVec.and_append]
  simp

theorem stwAbs (x : RegNum) (c : BitVec 9) : Statement (.stwAbs x c) := by
  refine ⟨opcodeMap[81], List.getElem_mem (by decide), ?_⟩
  show (encode (.stwAbs x c) &&& 0xFC00#16 == 0xD000#16) = true
  refine beq_iff_eq.2 ((show _ &&& (0x3f#6 ++ 0#1 ++ 0#9 : BitVec 16) = _ from ?_) : _ = 0xD000#16)
  simp only [encode]
  erw [BitVec.and_append, BitVec.and_append]
  simp

theorem stwIdx (x : RegNum) (y : BitVec 2) (b : BitVec 4) : Statement (.stwIdx x y b) := by
  refine ⟨opcodeMap[82], List.getElem_mem (by decide), ?_⟩
  show (encode (.stwIdx x y b) &&& 0xFC00#16 == 0xD400#16) = true
  refine beq_iff_eq.2 ((show _ &&& (0x3f#6 ++ 0#4 ++ 0#2 ++ 0#4 : BitVec 16) = _ from ?_) : _ = 0xD400#16)
  simp only [encode]
  erw [BitVec.and_append, BitVec.and_append, BitVec.and_append]
  simp

theorem stspr (x : BitVec 3) (y : BitVec 4) : Statement (.stspr x y) := by
  refine ⟨opcodeMap[83], List.getElem_mem (by decide), ?_⟩
  show (encode (.stspr x y) &&& 0xFC70#16 == 0xD800#16) = true
  refine beq_iff_eq.2 ((show _ &&& (0x3f#6 ++ 0#3 ++ 0x7#3 ++ 0#4 : BitVec 16) = _ from ?_) : _ = 0xD800#16)
  simp only [encode]
  erw [BitVec.and_append, BitVec.and_append, BitVec.and_append]
  simp

theorem ldbAbs (x : RegNum) (e : BitVec 10) : Statement (.ldbAbs x e) := by
  refine ⟨opcodeMap[84], List.getElem_mem (by decide), ?_⟩
  show (encode (.ldbAbs x e) &&& 0xF800#16 == 0xE000#16) = true
  refine beq_iff_eq.2 ((show _ &&& (0x1f#5 ++ 0#1 ++ 0#10 : BitVec 16) = _ from ?_) : _ = 0xE000#16)
  simp only [encode]
  erw [BitVec.and_append, BitVec.and_append]
  simp

theorem ldbIdx (x : RegNum) (y : BitVec 2) (b : BitVec 4) : Statement (.ldbIdx x y b) := by
  refine ⟨opcodeMap[85], List.getElem_mem (by decide), ?_⟩
  show (encode (.ldbIdx x y b) &&& 0xFC00#16 == 0xE800#16) = true
  refine beq_iff_eq.2 ((show _ &&& (0x3f#6 ++ 0#4 ++ 0#2 ++ 0#4 : BitVec 16) = _ from ?_) : _ = 0xE800#16)
  simp only [encode]
  erw [BitVec.and_append, BitVec.and_append, BitVec.and_append]
  simp

theorem stbAbs (x : RegNum) (e : BitVec 10) : Statement (.stbAbs x e) := by
  refine ⟨opcodeMap[86], List.getElem_mem (by decide), ?_⟩
  show (encode (.stbAbs x e) &&& 0xF800#16 == 0xF000#16) = true
  refine beq_iff_eq.2 ((show _ &&& (0x1f#5 ++ 0#1 ++ 0#10 : BitVec 16) = _ from ?_) : _ = 0xF000#16)
  simp only [encode]
  erw [BitVec.and_append, BitVec.and_append]
  simp

theorem stbIdx (x : RegNum) (y : BitVec 2) (b : BitVec 4) : Statement (.stbIdx x y b) := by
  refine ⟨opcodeMap[87], List.getElem_mem (by decide), ?_⟩
  show (encode (.stbIdx x y b) &&& 0xFC00#16 == 0xF800#16) = true
  refine beq_iff_eq.2 ((show _ &&& (0x3f#6 ++ 0#4 ++ 0#2 ++ 0#4 : BitVec 16) = _ from ?_) : _ = 0xF800#16)
  simp only [encode]
  erw [BitVec.and_append, BitVec.and_append, BitVec.and_append]
  simp

end Sys2Proof.Laws.EncodeFits
end

