-- ==== Sys2Proof/Tests/Slice0.lean ====
section
/-! SUPPORT. Tests: ill-formed terms are refused, words written out from the encodings of spec/30_encoding.md R120
decode as they should, one step of each instruction on a worked example of the spec, and for every statement with
hypotheses a state and operands that meet them (`test_witness_<Name>`). -/

namespace Sys2Proof.Tests

open Sys2Proof Sys2Proof.Machine

set_option Elab.async false

/-! ### Well-formedness -/

theorem test_wf_ldw_refuses_r2 : (Instr.ldwAbs 2#4 0#9).wf = false := by decide

theorem test_wf_stw_refuses_r2 : (Instr.stwAbs 2#4 0#9).wf = false := by decide

theorem test_wf_ldb_refuses_r8 : (Instr.ldbAbs 8#4 0#10).wf = false := by decide

theorem test_wf_stb_refuses_rf : (Instr.stbAbs 15#4 0#10).wf = false := by decide

theorem test_wf_accepts_r1 : (Instr.ldwAbs 1#4 0x1FF#9).wf = true ∧ (Instr.stbAbs 1#4 0x3FF#10).wf = true := by decide

/-! ### Decoding: every row's word with asymmetric operands, written out from its pattern -/

theorem test_decode_prefix :
    decodeWord 0b0010101101001101#16 = .ok (.imm 0b10101101001101#14) := by
  decide +kernel

theorem test_decode_arithmetic :
    decodeWord 0b0100000011010010#16 = .ok (.addRR 0b1101#4 0b0010#4) ∧
      decodeWord 0b0110000011010111#16 = .ok (.addRI 0b1101#4 0b0111#4) ∧
      decodeWord 0b0101000011010010#16 = .ok (.adcRR 0b1101#4 0b0010#4) ∧
      decodeWord 0b0111000011010111#16 = .ok (.adcRI 0b1101#4 0b0111#4) ∧
      decodeWord 0b0100100011010010#16 = .ok (.subRR 0b1101#4 0b0010#4) ∧
      decodeWord 0b0110100011010111#16 = .ok (.subRI 0b1101#4 0b0111#4) ∧
      decodeWord 0b0101100011010010#16 = .ok (.sbbRR 0b1101#4 0b0010#4) ∧
      decodeWord 0b0111100011010111#16 = .ok (.sbbRI 0b1101#4 0b0111#4) := by
  decide +kernel

theorem test_decode_logic :
    decodeWord 0b0100010011010010#16 = .ok (.andRR 0b1101#4 0b0010#4) ∧
      decodeWord 0b0110010011010111#16 = .ok (.andRI 0b1101#4 0b0111#4) ∧
      decodeWord 0b0101010011010010#16 = .ok (.orRR 0b1101#4 0b0010#4) ∧
      decodeWord 0b0111010011010111#16 = .ok (.orRI 0b1101#4 0b0111#4) ∧
      decodeWord 0b0100110011010010#16 = .ok (.xorRR 0b1101#4 0b0010#4) ∧
      decodeWord 0b0110110011010111#16 = .ok (.xorRI 0b1101#4 0b0111#4) := by
  decide +kernel

theorem test_decode_shift :
    decodeWord 0b0101110011010000#16 = .ok (.sla 0b1101#4) ∧
      decodeWord 0b0101110011010001#16 = .ok (.slx 0b1101#4) ∧
      decodeWord 0b0101110011010010#16 = .ok (.sl0 0b1101#4) ∧
      decodeWord 0b0101110011010011#16 = .ok (.sl1 0b1101#4) ∧
      decodeWord 0b0101110011010100#16 = .ok (.rl 0b1101#4) ∧
      decodeWord 0b0111110011010000#16 = .ok (.sra 0b1101#4) ∧
      decodeWord 0b0111110011010001#16 = .ok (.srx 0b1101#4) ∧
      decodeWord 0b0111110011010010#16 = .ok (.sr0 0b1101#4) ∧
      decodeWord 0b0111110011010011#16 = .ok (.sr1 0b1101#4) ∧
      decodeWord 0b0111110011010100#16 = .ok (.rr 0b1101#4) := by
  decide +kernel

theorem test_decode_compare_load :
    decodeWord 0b0100001011010010#16 = .ok (.cmpRR 0b1101#4 0b0010#4) ∧
      decodeWord 0b0110001011010111#16 = .ok (.cmpRI 0b1101#4 0b0111#4) ∧
      decodeWord 0b0101001011010010#16 = .ok (.testRR 0b1101#4 0b0010#4) ∧
      decodeWord 0b0111001011010111#16 = .ok (.testRI 0b1101#4 0b0111#4) ∧
      decodeWord 0b0100101011010010#16 = .ok (.loadRR 0b1101#4 0b0010#4) ∧
      decodeWord 0b0110101011010111#16 = .ok (.loadRI 0b1101#4 0b0111#4) := by
  decide +kernel

theorem test_decode_mul_div :
    decodeWord 0b0100011011010010#16 = .ok (.mulRR 0b1101#4 0b0010#4) ∧
      decodeWord 0b0110011011010111#16 = .ok (.mulRI 0b1101#4 0b0111#4) ∧
      decodeWord 0b0101011011010010#16 = .ok (.mulsRR 0b1101#4 0b0010#4) ∧
      decodeWord 0b0111011011010111#16 = .ok (.mulsRI 0b1101#4 0b0111#4) ∧
      decodeWord 0b0100111011010010#16 = .ok (.divRR 0b1101#4 0b0010#4) ∧
      decodeWord 0b0110111011010111#16 = .ok (.divRI 0b1101#4 0b0111#4) ∧
      decodeWord 0b0101111011010010#16 = .ok (.divsRR 0b1101#4 0b0010#4) ∧
      decodeWord 0b0111111011010111#16 = .ok (.divsRI 0b1101#4 0b0111#4) := by
  decide +kernel

theorem test_decode_barrel :
    decodeWord 0b0100000111010111#16 = .ok (.bsl 0b1101#4 0b0111#4) ∧
      decodeWord 0b0110000111010111#16 = .ok (.bsr 0b1101#4 0b0111#4) := by
  decide +kernel

theorem test_decode_float :
    decodeWord 0b0100001100001001#16 = .ok (.fmul 0b10#2 0b01#2) ∧
      decodeWord 0b0110001100001001#16 = .ok (.fdiv 0b10#2 0b01#2) ∧
      decodeWord 0b0101001100001001#16 = .ok (.fadd 0b10#2 0b01#2) ∧
      decodeWord 0b0111001100001001#16 = .ok (.fsub 0b10#2 0b01#2) ∧
      decodeWord 0b0100101100001001#16 = .ok (.fcmp 0b10#2 0b01#2) ∧
      decodeWord 0b0110101100001000#16 = .ok (.fint 0b10#2) ∧
      decodeWord 0b0101101100001000#16 = .ok (.fflt 0b10#2) := by
  decide +kernel

theorem test_decode_jump :
    decodeWord 0b1000010110100011#16 = .ok (.jump 0b110100011#9) ∧
      decodeWord 0b1000000110100011#16 = .ok (.jumpNz 0b110100011#9) ∧
      decodeWord 0b1001000110100011#16 = .ok (.jumpZ 0b110100011#9) ∧
      decodeWord 0b1000100110100011#16 = .ok (.jumpNc 0b110100011#9) ∧
      decodeWord 0b1001100110100011#16 = .ok (.jumpC 0b110100011#9) ∧
      decodeWord 0b1000011110100011#16 = .ok (.jumpRel 0b110100011#9) ∧
      decodeWord 0b1000001110100011#16 = .ok (.jumpRelNz 0b110100011#9) ∧
      decodeWord 0b1001001110100011#16 = .ok (.jumpRelZ 0b110100011#9) ∧
      decodeWord 0b1000101110100011#16 = .ok (.jumpRelNc 0b110100011#9) ∧
      decodeWord 0b1001101110100011#16 = .ok (.jumpRelC 0b110100011#9) := by
  decide +kernel

theorem test_decode_call :
    decodeWord 0b1010010110100011#16 = .ok (.call 0b110100011#9) ∧
      decodeWord 0b1010000110100011#16 = .ok (.callNz 0b110100011#9) ∧
      decodeWord 0b1011000110100011#16 = .ok (.callZ 0b110100011#9) ∧
      decodeWord 0b1010100110100011#16 = .ok (.callNc 0b110100011#9) ∧
      decodeWord 0b1011100110100011#16 = .ok (.callC 0b110100011#9) ∧
      decodeWord 0b1010011110100011#16 = .ok (.callRel 0b110100011#9) ∧
      decodeWord 0b1010001110100011#16 = .ok (.callRelNz 0b110100011#9) ∧
      decodeWord 0b1011001110100011#16 = .ok (.callRelZ 0b110100011#9) ∧
      decodeWord 0b1010101110100011#16 = .ok (.callRelNc 0b110100011#9) ∧
      decodeWord 0b1011101110100011#16 = .ok (.callRelC 0b110100011#9) := by
  decide +kernel

theorem test_decode_system :
    decodeWord 0b1001111000000000#16 = .ok .svc ∧
      decodeWord 0b1011111000000000#16 = .ok .ret ∧
      decodeWord 0b1011111000000001#16 = .ok .reti ∧
      decodeWord 0b1011111000000010#16 = .ok .rete := by
  decide +kernel

theorem test_decode_word_access :
    decodeWord 0b1100001110100011#16 = .ok (.ldwAbs 0b0001#4 0b110100011#9) ∧
      decodeWord 0b1100011101100111#16 = .ok (.ldwIdx 0b1101#4 0b10#2 0b0111#4) ∧
      decodeWord 0b1101001110100011#16 = .ok (.stwAbs 0b0001#4 0b110100011#9) ∧
      decodeWord 0b1101011101100111#16 = .ok (.stwIdx 0b1101#4 0b10#2 0b0111#4) := by
  decide +kernel

theorem test_decode_spr_index_mmu :
    decodeWord 0b1100100110000010#16 = .ok (.ldspr 0b011#3 0b0010#4) ∧
      decodeWord 0b1100100000100010#16 = .ok (.incpr 0b10#2) ∧
      decodeWord 0b1100100001100010#16 = .ok (.wincpr 0b10#2) ∧
      decodeWord 0b1100100000110010#16 = .ok (.decpr 0b10#2) ∧
      decodeWord 0b1100100001110010#16 = .ok (.wdecpr 0b10#2) ∧
      decodeWord 0b1100110011010000#16 = .ok (.ldpid 0b1101#4) ∧
      decodeWord 0b1100111001110110#16 = .ok (.ldtlb 0b011#3 0b10110#5) ∧
      decodeWord 0b1101100110000010#16 = .ok (.stspr 0b011#3 0b0010#4) := by
  decide +kernel

theorem test_decode_byte_access :
    decodeWord 0b1110011011000101#16 = .ok (.ldbAbs 0b0001#4 0b1011000101#10) ∧
      decodeWord 0b1110101101100111#16 = .ok (.ldbIdx 0b1101#4 0b10#2 0b0111#4) ∧
      decodeWord 0b1111011011000101#16 = .ok (.stbAbs 0b0001#4 0b1011000101#10) ∧
      decodeWord 0b1111101101100111#16 = .ok (.stbIdx 0b1101#4 0b10#2 0b0111#4) := by
  decide +kernel

/-- A word of each group of spec/30_encoding.md R125 that is no instruction. -/
theorem test_decode_refuses :
    [0x4500#16, 0x5D10#16, 0x5C05#16, 0x6B05#16, 0x8C00#16, 0x9E01#16, 0xBE03#16, 0xC810#16, 0xCC31#16, 0xDC00#16].map
      (fun w => (decodeWord w).toBool) = List.replicate 10 false := by
  decide +kernel

theorem test_decodeTableWord :
    decodeTableWord 16 0xD490 = some (.stwIdx 2#4 1#2 0#4) ∧ decodeTableWord 16 0x4500 = none := by
  decide +kernel

/-! ### One step of each instruction, from the examples of spec/41_alu_integer.md to spec/46_io_spr_mmu.md and
spec/60_exceptions.md -/

/-- `pc = 0x000100`, as the vectors of spec/95_test_vectors.md start, and these registers. -/
def start (regs : List (RegNum × Word)) : State := regs.foldl (fun s p => s.setReg p.1 p.2) (State.reset.setPc 0x100#24)

/-- The next state is one of which `p` holds. -/
def nextWith (r : Result) (p : State → Bool) : Bool :=
  match r with
  | .next t => p t
  | .fault _ => false
  | .refused _ => false

/-- One step on this word ends in a state of which `p` holds. -/
def ends (w : Word) (s : State) (p : State → Bool) : Bool := nextWith (step (s.withFetchWord 16 w.toNat)) p

/-- One step on this word ends with this register and these flags, at the next instruction. -/
def gives (w : Word) (s : State) (x : RegNum) (v : Word) (z c : Bool) : Bool :=
  ends w s fun t => t.reg x == v && t.msr.z == z && t.msr.c == c && t.pc == s.pc + 2#24

/-- One step on this word ends with control here. -/
def goes (w : Word) (s : State) (a : Addr) : Bool := ends w s fun t => t.pc == a && t.lr == s.lr

/-- One step on this word ends with control here and this link. -/
def calls (w : Word) (s : State) (a : Addr) (l : Long) : Bool := ends w s fun t => t.pc == a && t.lr == l

/-- `C = 1`. -/
def withC (s : State) : State := s.setFlags false true

/-- `Z = 1`. -/
def withZ (s : State) : State := s.setFlags true false

/-- `E = 1`. -/
def withE (s : State) : State := s.setMsr { s.msr with e := true }

/-- `UM = 1`. -/
def inUser (s : State) : State := s.setMsr { s.msr with um := true }

/-- A byte of the memory image. -/
def withByte (s : State) (a : Nat) (v : Byte) : State := { s with mem := s.mem.write a v }

theorem test_imm :
    ends 0x3123#16 (start []) (fun t => t.immv && t.imma == 0x3123#14 && t.pc == 0x102#24) = true := by
  decide +kernel

theorem test_addRR :
    gives 0x4012#16 (start [(1#4, 0xFFFF#16), (2#4, 0x1#16)]) 1#4 0x0000#16 true true = true := by
  decide +kernel

theorem test_addRI : gives 0x6035#16 (start [(3#4, 0x10#16)]) 3#4 0x0015#16 false false = true := by decide +kernel

theorem test_addRI_extended :
    gives 0x603F#16 ((start [(3#4, 0x10#16)]).setLatch 0xFFF#14) 3#4 0x000F#16 false true = true := by
  decide +kernel

theorem test_adcRR :
    gives 0x5012#16 (withC (start [(1#4, 0x1#16), (2#4, 0x2#16)])) 1#4 0x0004#16 false false = true := by
  decide +kernel

theorem test_adcRI :
    gives 0x7040#16 (withC (start [(4#4, 0xFFFF#16)])) 4#4 0x0000#16 true true = true := by
  decide +kernel

theorem test_subRR :
    gives 0x4812#16 (start [(1#4, 0x3#16), (2#4, 0x5#16)]) 1#4 0xFFFE#16 false true = true := by
  decide +kernel

theorem test_subRI : gives 0x6831#16 (start [(3#4, 0x1#16)]) 3#4 0x0000#16 true false = true := by decide +kernel

theorem test_sbbRR :
    gives 0x5812#16 (withC (start [(1#4, 0x5#16), (2#4, 0x3#16)])) 1#4 0x0001#16 false false = true := by
  decide +kernel

theorem test_sbbRI :
    gives 0x7810#16 (withC (start [(1#4, 0x0#16)])) 1#4 0xFFFF#16 false true = true := by
  decide +kernel

theorem test_andRR :
    gives 0x4412#16 (withC (start [(1#4, 0xF0F0#16), (2#4, 0xFF0#16)])) 1#4 0x00F0#16 false false = true := by
  decide +kernel

theorem test_andRI : gives 0x641F#16 (start [(1#4, 0x1234#16)]) 1#4 0x0004#16 false false = true := by decide +kernel

theorem test_orRR :
    gives 0x5412#16 (withC (start [(1#4, 0xF0#16), (2#4, 0xF00#16)])) 1#4 0x0FF0#16 false false = true := by
  decide +kernel

theorem test_orRI : gives 0x7418#16 (start [(1#4, 0x1#16)]) 1#4 0x0009#16 false false = true := by decide +kernel

theorem test_xorRR :
    gives 0x4C11#16 (withC (start [(1#4, 0xABCD#16)])) 1#4 0x0000#16 true false = true := by
  decide +kernel

theorem test_xorRI : gives 0x6C1F#16 (start [(1#4, 0xFF#16)]) 1#4 0x00F0#16 false false = true := by decide +kernel

theorem test_sla :
    gives 0x5C50#16 (withC (start [(5#4, 0x4002#16)])) 5#4 0x8005#16 false false = true := by
  decide +kernel

theorem test_slx : gives 0x5C51#16 (start [(5#4, 0x8001#16)]) 5#4 0x0003#16 false true = true := by decide +kernel

theorem test_sl0 : gives 0x5C52#16 (start [(5#4, 0x8000#16)]) 5#4 0x0000#16 true true = true := by decide +kernel

theorem test_sl1 : gives 0x5C53#16 (start [(5#4, 0x8001#16)]) 5#4 0x0003#16 false true = true := by decide +kernel

theorem test_rl :
    gives 0x5C54#16 (withC (start [(5#4, 0x4002#16)])) 5#4 0x8005#16 false false = true := by
  decide +kernel

theorem test_sra : gives 0x7C50#16 (start [(5#4, 0x8001#16)]) 5#4 0x4000#16 false true = true := by decide +kernel

theorem test_srx : gives 0x7C51#16 (start [(5#4, 0x8001#16)]) 5#4 0xC000#16 false true = true := by decide +kernel

theorem test_sr0 : gives 0x7C52#16 (start [(5#4, 0x1#16)]) 5#4 0x0000#16 true true = true := by decide +kernel

theorem test_sr1 : gives 0x7C53#16 (start [(5#4, 0x8001#16)]) 5#4 0xC000#16 false true = true := by decide +kernel

theorem test_rr :
    gives 0x7C54#16 (withC (start [(5#4, 0x4002#16)])) 5#4 0xA001#16 false false = true := by
  decide +kernel

theorem test_cmpRR :
    gives 0x4212#16 (start [(1#4, 0x4#16), (2#4, 0x5#16)]) 1#4 0x0004#16 false true = true := by
  decide +kernel

theorem test_cmpRI :
    gives 0x6219#16 (withC (start [(1#4, 0xA#16)])) 1#4 0x000A#16 false false = true := by
  decide +kernel

theorem test_testRR :
    gives 0x5212#16 (withC (start [(1#4, 0xF0#16), (2#4, 0xF#16)])) 1#4 0x00F0#16 true false = true := by
  decide +kernel

theorem test_testRI : gives 0x7211#16 (start [(1#4, 0x3#16)]) 1#4 0x0003#16 false false = true := by decide +kernel

theorem test_loadRR :
    gives 0x4A12#16 (withC (start [(2#4, 0xBEEF#16)])) 1#4 0xBEEF#16 false true = true := by
  decide +kernel

theorem test_loadRI :
    gives 0x6A1F#16 ((start []).setLatch 0xBEE#14) 1#4 0xBEEF#16 false false = true := by
  decide +kernel

theorem test_mulRR :
    ends 0x4612#16 (start [(1#4, 0xFFFF#16), (2#4, 0xFFFF#16)]) (fun t =>
      t.reg 14#4 == 0xFFFE#16 && t.reg 15#4 == 0x0001#16) = true := by
  decide +kernel

theorem test_mulRI :
    ends 0x661A#16 (start [(1#4, 0x1000#16)]) (fun t =>
      t.reg 14#4 == 0x0000#16 && t.reg 15#4 == 0xA000#16) = true := by
  decide +kernel

theorem test_mulsRR :
    ends 0x5612#16 (start [(1#4, 0xFFFF#16), (2#4, 0x0002#16)]) (fun t =>
      t.reg 14#4 == 0xFFFF#16 && t.reg 15#4 == 0xFFFE#16) = true := by
  decide +kernel

theorem test_mulsRI :
    ends 0x7613#16 (start [(1#4, 0x8000#16)]) (fun t =>
      t.reg 14#4 == 0xFFFE#16 && t.reg 15#4 == 0x8000#16) = true := by
  decide +kernel

theorem test_divRR :
    ends 0x4E12#16 (start [(14#4, 0x0001#16), (15#4, 0x0000#16), (2#4, 0x0002#16)]) (fun t =>
      t.reg 1#4 == 0x8000#16) = true := by
  decide +kernel

theorem test_divRI :
    ends 0x6E3A#16 (start [(15#4, 0x0064#16)]) (fun t => t.reg 3#4 == 0x000A#16) = true := by
  decide +kernel

theorem test_divsRR :
    ends 0x5E12#16 (start [(14#4, 0xFFFF#16), (15#4, 0xFFF9#16), (2#4, 0x0002#16)]) (fun t =>
      t.reg 1#4 == 0xFFFD#16) = true := by
  decide +kernel

theorem test_divsRI :
    ends 0x7E12#16 (start [(14#4, 0xFFFF#16), (15#4, 0xFFF9#16)]) (fun t => t.reg 1#4 == 0xFFFD#16) = true := by
  decide +kernel

theorem test_div_by_zero :
    ends 0x4E12#16 (withE (start [])) (fun t =>
      t.pc == 8#24 && t.msr.ec == 1#4 && t.elr == 0x102#32 && t.msr.eip) = true := by
  decide +kernel

theorem test_bsl : gives 0x4123#16 (start [(2#4, 0x1234#16)]) 2#4 0x2340#16 false true = true := by decide +kernel

theorem test_bsr :
    gives 0x6123#16 (withC (start [(2#4, 0x1234#16)])) 2#4 0x0123#16 false false = true := by
  decide +kernel

theorem test_fmul :
    ends 0x4301#16 (((start []).setFpr 0#2 0x40000000#32).setFpr 1#2 0x40400000#32) (fun t =>
      t.fpr 0#2 == 0x40C00000#32) = true := by
  decide +kernel

theorem test_fdiv :
    ends 0x6301#16 (((start []).setFpr 0#2 0x40C00000#32).setFpr 1#2 0x40000000#32) (fun t =>
      t.fpr 0#2 == 0x40400000#32) = true := by
  decide +kernel

theorem test_fdiv_by_zero :
    ends 0x6301#16 (((start []).setFpr 0#2 0x40C00000#32).setFpr 1#2 0x00000000#32) (fun t =>
      t.fpr 0#2 == 0x7F800000#32) = true := by
  decide +kernel

theorem test_fadd :
    ends 0x530B#16 (((start []).setFpr 2#2 0x3F800000#32).setFpr 3#2 0x40000000#32) (fun t =>
      t.fpr 2#2 == 0x40400000#32) = true := by
  decide +kernel

theorem test_fsub :
    ends 0x7301#16 (((start []).setFpr 0#2 0x40400000#32).setFpr 1#2 0x3F800000#32) (fun t =>
      t.fpr 0#2 == 0x40000000#32) = true := by
  decide +kernel

theorem test_fcmp :
    ends 0x4B01#16 (((start []).setFpr 0#2 0x3F800000#32).setFpr 1#2 0x40000000#32) (fun t =>
      !t.msr.z && t.msr.c) = true := by
  decide +kernel

theorem test_fint :
    ends 0x6B04#16 ((start []).setFpr 1#2 0xC0200000#32) (fun t => t.fpr 1#2 == 0xFFFFFFFE#32) = true := by
  decide +kernel

theorem test_fflt :
    ends 0x5B00#16 ((start []).setFpr 0#2 3#32) (fun t => t.fpr 0#2 == 0x40400000#32) = true := by
  decide +kernel

theorem test_jump : goes 0x85A3#16 ((start []).setLatch 0x48#14) 0x12346#24 = true := by decide +kernel

theorem test_jumpNz : goes 0x8008#16 (start []) 0x10#24 = true := by decide +kernel

theorem test_jumpZ : goes 0x9008#16 (withZ (start [])) 0x10#24 = true := by decide +kernel

theorem test_jumpNc : goes 0x8808#16 (withC (start [])) 0x102#24 = true := by decide +kernel

theorem test_jumpC : goes 0x9808#16 (withC (start [])) 0x10#24 = true := by decide +kernel

theorem test_jumpRel : goes 0x87FE#16 (State.reset.setPc 0x8#24) 4#24 = true := by decide +kernel

theorem test_jumpRelNz : goes 0x83FE#16 (withZ (State.reset.setPc 0x8#24)) 0xA#24 = true := by decide +kernel

theorem test_jumpRelZ : goes 0x9203#16 (withZ (State.reset.setPc 0x20#24)) 0x26#24 = true := by decide +kernel

theorem test_jumpRelNc : goes 0x8A03#16 (State.reset.setPc 0x20#24) 0x26#24 = true := by decide +kernel

theorem test_jumpRelC : goes 0x9A03#16 (withC (State.reset.setPc 0x20#24)) 0x26#24 = true := by decide +kernel

theorem test_call : calls 0xA420#16 (State.reset.setPc 0x6#24) 0x40#24 8#32 = true := by decide +kernel

theorem test_callNz : calls 0xA020#16 (withZ (State.reset.setPc 0x6#24)) 8#24 0#32 = true := by decide +kernel

theorem test_callZ : calls 0xB020#16 (withZ (State.reset.setPc 0x6#24)) 0x40#24 8#32 = true := by decide +kernel

theorem test_callNc : calls 0xA820#16 (State.reset.setPc 0x6#24) 0x40#24 8#32 = true := by decide +kernel

theorem test_callC : calls 0xB820#16 (State.reset.setPc 0x6#24) 8#24 0#32 = true := by decide +kernel

theorem test_callRel : calls 0xA605#16 (State.reset.setPc 0x100#24) 0x10A#24 0x102#32 = true := by decide +kernel

theorem test_callRelNz : calls 0xA205#16 (State.reset.setPc 0x100#24) 0x10A#24 0x102#32 = true := by decide +kernel

theorem test_callRelZ :
    calls 0xB3FC#16 (withZ (State.reset.setPc 0x100#24)) 0xF8#24 0x102#32 = true := by
  decide +kernel

theorem test_callRelNc :
    calls 0xAA05#16 (withC (State.reset.setPc 0x100#24)) 0x102#24 0#32 = true := by
  decide +kernel

theorem test_callRelC :
    calls 0xBA05#16 (withC (State.reset.setPc 0x100#24)) 0x10A#24 0x102#32 = true := by
  decide +kernel

theorem test_svc :
    ends 0x9E00#16 (inUser (State.reset.setPc 0x200#24)) (fun t =>
    t.elr == 0x202#32 && t.msr == { State.reset.msr with ums := true, eip := true } && t.pc == 0xC#24) = true := by
  decide +kernel

theorem test_ret : goes 0xBE00#16 ((start []).setLr 8#32) 8#24 = true := by decide +kernel

theorem test_reti :
    ends 0xBE01#16 ((start []).setMsr { State.reset.msr with ums := true } |>.setIlr 0x124#32) (fun t =>
    t.pc == 0x124#24 && t.msr == { State.reset.msr with ums := true, um := true, i := true }) = true := by
  decide +kernel

theorem test_rete :
    ends 0xBE02#16 ((start []).setMsr { State.reset.msr with ums := true, eip := true } |>.setElr 0x202#32) (fun t =>
    t.pc == 0x202#24 && t.msr == { State.reset.msr with ums := true, um := true }) = true := by
  decide +kernel

theorem test_ldwAbs :
    ends 0xC3A3#16 (withByte (withByte ((start []).setLatch 0x48#14) 0x12346 0x12#8) 0x12347 0x34#8) (fun t =>
    t.reg 1#4 == 0x1234#16 && !t.immv) = true := by
  decide +kernel

theorem test_ldwIdx :
    ends 0xC543#16 (withByte (withByte ((start []).setIndex 0#2 0x100#32) 0x106 0x12#8) 0x107 0x34#8) (fun t =>
    t.reg 5#4 == 0x1234#16) = true := by
  decide +kernel

theorem test_ldwIdx_odd :
    ends 0xC543#16 (withE ((start []).setIndex 0#2 0x101#32)) (fun t =>
    t.ear == 0x107#32 && t.msr.ec == 2#4 && t.pc == 8#24) = true := by
  decide +kernel

theorem test_ldspr :
    ends 0xC881#16 ((start []).setLr 0x12346#32) (fun t => t.reg 2#4 == 1#16 && t.reg 3#4 == 0x2346#16) = true := by
  decide +kernel

theorem test_ldspr_msr :
    ends 0xC800#16 ((start []).setMsr { State.reset.msr with i := true, e := true, z := true }) (fun t =>
    t.reg 0#4 == 0x2000#16 && t.reg 1#4 == 3#16) = true := by
  decide +kernel

theorem test_incpr :
    ends 0xC820#16 ((start []).setIndex 0#2 0xFFFFFFFF#32) (fun t => t.index 0#2 == 0x00000000#32) = true := by
  decide +kernel

theorem test_wincpr :
    ends 0xC862#16 ((start []).setIndex 2#2 0x00000100#32) (fun t => t.index 2#2 == 0x00000102#32) = true := by
  decide +kernel

theorem test_decpr :
    ends 0xC831#16 ((start []).setIndex 1#2 0x00000000#32) (fun t => t.index 1#2 == 0xFFFFFFFF#32) = true := by
  decide +kernel

theorem test_wdecpr :
    ends 0xC873#16 ((start []).setIndex 3#2 0x00000100#32) (fun t => t.index 3#2 == 0x000000FE#32) = true := by
  decide +kernel

theorem test_ldpid : ends 0xCC30#16 (start [(3#4, 0xFFE5#16)]) (fun t => t.pid == 0x25#6) = true := by decide +kernel

theorem test_ldtlb :
    ends 0xCE25#16 (start [(2#4, 0x0305#16), (3#4, 0x4040#16)]) (fun t =>
      t.tlbEntry 5#5 == 0x03054040#32) = true := by
  decide +kernel

theorem test_stwAbs :
    ends 0xD080#16 ((start [(0#4, 0x1234#16)]).setPc 0x200#24) (fun t =>
      t.byteAt 0x100#24 == 0x12#8 && t.byteAt 0x101#24 == 0x34#8) = true := by
  decide +kernel

theorem test_stwIdx :
    ends 0xD490#16 ((start [(2#4, 0xBEEF#16)]).setIndex 1#2 0x200#32) (fun t =>
    t.byteAt 0x200#24 == 0xBE#8 && t.byteAt 0x201#24 == 0xEF#8 && t.stored == [0x200, 0x201]) = true := by
  decide +kernel

theorem test_stspr :
    ends 0xD880#16 (start [(2#4, 0xFFFF#16), (3#4, 0xFFC3#16)]) (fun t =>
      t.msr == { State.reset.msr with i := true, e := true }) = true := by
  decide +kernel

theorem test_ldbAbs :
    ends 0xE501#16 (withByte ((start [(1#4, 0xFFFF#16)]).setPc 0x200#24) 0x101 0x34#8) (fun t =>
      t.reg 1#4 == 0x34#16) = true := by
  decide +kernel

theorem test_ldbIdx :
    ends 0xE901#16 (withByte (((start []).setPc 0x200#24).setIndex 0#2 0x100#32) 0x101 0x34#8) (fun t =>
      t.reg 4#4 == 0x34#16) = true := by
  decide +kernel

theorem test_stbAbs :
    ends 0xF3FF#16 (start [(0#4, 0xABCD#16)]) (fun t => t.byteAt 0x3FF#24 == 0xCD#8) = true := by
  decide +kernel

theorem test_stbIdx :
    ends 0xF9FF#16 ((start [(7#4, 0x42#16)]).setIndex 3#2 0x00FFFFF8#32) (fun t =>
      t.byteAt 7#24 == 0x42#8) = true := by
  decide +kernel

theorem test_interrupt :
    ends 0x6A04#16 { (start []).setMsr { State.reset.msr with i := true } with irq := [true] } (fun t =>
    t.ilr == 0x100#32 && t.pc == 4#24 && !t.msr.i && t.irq == []) = true := by
  decide +kernel

theorem test_illegal_word :
    ends 0x4500#16 (withE (start [])) (fun t => t.msr.ec == 3#4 && t.elr == 0x102#32 && t.pc == 8#24) = true := by
  decide +kernel

/-! ### Witnesses: states and operands that meet the hypotheses of each statement, clause by clause -/

/-- A next state found by evaluation. -/
theorem exists_of_nextWith {r : Result} {p : State → Bool} (h : nextWith r p = true) : ∃ t, r = .next t ∧ p t = true := by
  cases r with
  | next t => exact ⟨t, rfl, h⟩
  | fault f => cases h
  | refused f => cases h

/-- A next state found by evaluation, nothing asked of it. -/
theorem exists_next {r : Result} (h : nextWith r (fun _ => true) = true) : ∃ t, r = .next t :=
  let ⟨t, h, _⟩ := exists_of_nextWith h
  ⟨t, h⟩

/-- The reset state with a prefix pending in a build that ignores it before other instructions. -/
def prefixIgnored : State :=
  { State.reset with immv := true, imma := 0x3FFF#14, cfg := { State.reset.cfg with immUndocumented := .ignore } }

/-- A build without the optional units. -/
def bare (p : UnitAbsent) : State :=
  { State.reset with cfg := { State.reset.cfg with hasFpu := false, hasBarrel := false, hasMmu := false, unitAbsent := p } }

/-- The reset state with exceptions enabled, and with one in progress. -/
def enabled : State := withE State.reset

/-- An exception is in progress. -/
def inProgress : State := State.reset.setMsr { State.reset.msr with e := true, eip := true }

/-- A platform of one device, and one that admits nothing. -/
def onPlatform (p : List Region) : State := { State.reset with cfg := { State.reset.cfg with platform := p } }

/-- Every address a device. -/
def allDevice : Region := { Region.allMemory with kind := .device }

/-- `irq` is 1 at the next boundary and interrupts are enabled, in user mode, at the last even address. -/
def interrupted : State :=
  { State.reset with irq := [true], pc := 0xFFFFFE#24, msr := { State.reset.msr with i := true, um := true } }

/-- The settings of a relative target. -/
def relative (b : RelBase) (u : RelUnit) : State :=
  { State.reset with cfg := { State.reset.cfg with relBase := b, relUnit := u } }

/-- A write to a device is recorded and marked, and writes no memory; spec/20_memory.md R80 (log 6). -/
theorem test_device_write :
    nextWith (exec (.stwAbs 0#4 0x80#9) ((onPlatform [allDevice]).setReg 0#4 0x1234#16)) (fun t =>
      t.deviceLog == [.write .writeWord 0x100#24 0x1234#16] && t.stored == [0x100, 0x101] && t.mem == []) = true := by
  decide +kernel

/-- `MSR <- RESET_MSR`: `I`, `EC = 0011` and `EIP`; spec/70_reset_and_hazards.md R350. -/
theorem test_reset_msr :
    (State.resetOf { resetMsr := 0x80030001#32 }).msr.toLong = 0x80030001#32 ∧
      (State.resetOf { resetMsr := 0xFFFFFFFF#32 }).msr.toLong = 0xE00F003F#32 := by
  decide +kernel

theorem test_witness_DecodeInvertsEncode : (Instr.stbAbs 1#4 0x3FF#10).wf = true ∧ Instr.svc.wf = true := by decide

theorem test_witness_DecodingIsStrict :
    decodeWord 0x0000#16 = .ok (.imm 0#14) ∧ decodeWord 0xFBFF#16 = .ok (.stbIdx 15#4 3#2 15#4) := by
  decide +kernel

theorem test_witness_IllegalWordsAreTheListed :
    listedIllegal 0xFFFF#16 = true ∧ listedIllegal 0xFBFF#16 = false := by
  decide +kernel

theorem test_witness_PlacedWordIsFetched :
    State.reset.isMemory .fetch State.reset.pc ∧ interrupted.isMemory .fetch interrupted.pc := by
  decide +kernel

/-- At address 0 with the instruction in memory, and at the last even address, where the byte order is little-endian
and `irq` is 1 but interrupts are disabled. -/
theorem test_witness_StepRunsDecodedInstruction :
    let s := State.reset.withFetchWord 16 0x4012
    let r := State.withFetchWord { interrupted.setMsr State.reset.msr with cfg := { endian := .little } } 16 0xD490
    (s.pc.getLsbD 0 = false ∧ s.msr.vm = false ∧
      ¬ (s.irq.headD false = true ∧ s.msr.i = true ∧ s.msr.eip = false ∧ s.immv = false) ∧ s.isMemory .fetch s.pc ∧
      s.pc.toNat ∉ s.stored ∧ (s.pc + 1#24).toNat ∉ s.stored ∧
      decodeBytes s.cfg.endian [s.byteAt s.pc, s.byteAt (s.pc + 1#24)] = .ok (.addRR 1#4 2#4, [])) ∧
    (r.pc.getLsbD 0 = false ∧ r.msr.vm = false ∧
      ¬ (r.irq.headD false = true ∧ r.msr.i = true ∧ r.msr.eip = false ∧ r.immv = false) ∧ r.isMemory .fetch r.pc ∧
      r.pc.toNat ∉ r.stored ∧ (r.pc + 1#24).toNat ∉ r.stored ∧
      decodeBytes r.cfg.endian [r.byteAt r.pc, r.byteAt (r.pc + 1#24)] = .ok (.stwIdx 2#4 1#2 0#4, [])) := by
  decide +kernel

/-- The five ends: translation on, a stored byte (each of the two), no platform, a device, and an illegal word with exceptions
enabled, disabled and in progress. -/
theorem test_witness_StepTrapsOrRefuses :
    (State.reset.setMsr { State.reset.msr with vm := true }).msr.vm = true ∧
      (State.reset.putByte 0#24 1#8).pc.toNat ∈ (State.reset.putByte 0#24 1#8).stored ∧
      ((State.reset.putByte 1#24 1#8).pc + 1#24).toNat ∈ (State.reset.putByte 1#24 1#8).stored ∧
      (onPlatform []).regionKind .fetch (onPlatform []).pc = none ∧
      ((onPlatform [allDevice]).regionKind .fetch (onPlatform [allDevice]).pc = some .device ∧
        (onPlatform [allDevice]).stored = []) ∧
      [enabled, State.reset, inProgress].all (fun s =>
        let t := s.withFetchWord 16 0x4500
        decide (t.isMemory .fetch t.pc) && !(decodeWord (t.wordFrom t.pc)).toBool && !t.msr.vm && t.stored.isEmpty) = true ∧
      enabled.canTrap ∧ State.reset.msr.e = false ∧ (inProgress.msr.e = true ∧ inProgress.msr.eip = true) := by
  decide +kernel

theorem test_witness_InterruptEntered :
    interrupted.pc.getLsbD 0 = false ∧ interrupted.msr.vm = false ∧ interrupted.irq.headD false = true ∧
      interrupted.msr.i = true ∧ interrupted.msr.eip = false ∧ interrupted.immv = false := by
  decide

theorem test_witness_StepKeepsInvariant : State.reset.Inv ∧ ∃ t, step State.reset = .next t :=
  ⟨⟨by decide, by decide, by decide, by decide, by decide⟩,
    exists_next (by decide +kernel)⟩

theorem test_witness_StepNeverFaultsFromEvenPc : State.reset.pc.getLsbD 0 = false := by decide

/-- A store step that changes a byte, from a state in which one is already marked. -/
theorem test_witness_OnlyMarkedBytesChange :
    ∃ t, step (((start [(2#4, 0xBEEF#16)]).putByte 7#24 1#8).withFetchWord 16 0xD492) = .next t ∧
      (t.byteAt 4#24 != 0#8 && t.stored == [4, 5, 7]) = true :=
  exists_of_nextWith (by decide +kernel)

/-- An instruction that is no store and completes, and one that ends in an exception. -/
theorem test_witness_OnlyStoresWriteMemory :
    (∃ t, exec (.addRR 1#4 2#4) State.reset = .next t) ∧
      (∃ t, exec (.divRR 1#4 2#4) enabled = .next t ∧ t.msr.eip = true) ∧ ∀ x c, Instr.addRR 1#4 2#4 ≠ .stwAbs x c :=
  ⟨exists_next (by decide +kernel),
    exists_of_nextWith (p := fun t => t.msr.eip) (by decide +kernel), fun _ _ => (nomatch ·)⟩

/-- The four ends of a step from user mode: it stays there, and leaves by each of the three vectors. -/
theorem test_witness_OnlyTrapsLeaveUserMode :
    (inUser State.reset).msr.um = true ∧
      (∃ t, step ((inUser State.reset).withFetchWord 16 0x4012) = .next t ∧ t.msr.um = true) ∧
      (∃ t, step interrupted = .next t ∧ (t.pc == 4#24) = true) ∧
      (∃ t, step ((inUser enabled).withFetchWord 16 0x4500) = .next t ∧ (t.pc == 8#24) = true) ∧
      ∃ t, step ((inUser State.reset).withFetchWord 16 0x9E00) = .next t ∧ (t.pc == 12#24) = true :=
  ⟨rfl, exists_of_nextWith (p := fun t => t.msr.um) (by decide +kernel),
    exists_of_nextWith (p := fun t => t.pc == 4#24) (by decide +kernel),
    exists_of_nextWith (p := fun t => t.pc == 8#24) (by decide +kernel),
    exists_of_nextWith (p := fun t => t.pc == 12#24) (by decide +kernel)⟩

/-- A user-mode `stspr` of `LR` and a user-mode store. -/
theorem test_witness_UserModeKeepsTheSystem :
    (inUser State.reset).msr.um = true ∧
      (∃ t, step ((inUser State.reset).withFetchWord 16 0xD801) = .next t ∧ t.msr.um = true) ∧
      ∃ t, step ((inUser State.reset).withFetchWord 16 0xD490) = .next t ∧ t.msr.um = true :=
  ⟨rfl, exists_of_nextWith (p := fun t => t.msr.um) (by decide +kernel),
    exists_of_nextWith (p := fun t => t.msr.um) (by decide +kernel)⟩

theorem test_witness_OnlyReteEndsException :
    inProgress.msr.eip = true ∧ (∃ t, step (inProgress.withFetchWord 16 0x4012) = .next t ∧ t.msr.eip = true) ∧
      ∃ t, step (inProgress.withFetchWord 16 0xBE02) = .next t ∧ (!t.msr.eip) = true :=
  ⟨rfl, exists_of_nextWith (p := fun t => t.msr.eip) (by decide +kernel),
    exists_of_nextWith (p := fun t => !t.msr.eip) (by decide +kernel)⟩

/-- A step that keeps the code, and one for each code. -/
theorem test_witness_CodeOnlyChangesAtException :
    (∃ t, step (enabled.withFetchWord 16 0x4012) = .next t ∧ (t.msr.ec == 0#4) = true) ∧
      (∃ t, step (enabled.withFetchWord 16 0x4E12) = .next t ∧ (t.msr.ec == 1#4) = true) ∧
      (∃ t, step ((enabled.setIndex 0#2 1#32).withFetchWord 16 0xC400) = .next t ∧ (t.msr.ec == 2#4) = true) ∧
      ∃ t, step (enabled.withFetchWord 16 0x4500) = .next t ∧ (t.msr.ec == 3#4) = true :=
  ⟨exists_of_nextWith (p := fun t => t.msr.ec == 0#4) (by decide +kernel),
    exists_of_nextWith (p := fun t => t.msr.ec == 1#4) (by decide +kernel),
    exists_of_nextWith (p := fun t => t.msr.ec == 2#4) (by decide +kernel),
    exists_of_nextWith (p := fun t => t.msr.ec == 3#4) (by decide +kernel)⟩

/-- One instruction of each disjunct: class FC, `imm`, `load` of a register and of an immediate, and an entry. -/
theorem test_witness_OnlyFlagWritersChangeFlags :
    (Instr.unit (.jump 0#9) = .none ∧ ∃ t, exec (.jump 0#9) State.reset = .next t) ∧
      (Instr.unit (.imm 0#14) = .main ∧ ∃ t, exec (.imm 0#14) State.reset = .next t) ∧
      (∃ t, exec (.loadRR 1#4 2#4) State.reset = .next t) ∧
      (∃ t, exec (.loadRI 1#4 2#4) State.reset = .next t) ∧
      enabled.msr.eip = false ∧ ∃ t, exec (.divRR 1#4 2#4) enabled = .next t ∧ t.msr.eip = true :=
  ⟨⟨rfl, exists_next (by decide +kernel)⟩,
    ⟨rfl, exists_next (by decide +kernel)⟩,
    exists_next (by decide +kernel),
    exists_next (by decide +kernel), rfl,
    exists_of_nextWith (p := fun t => t.msr.eip) (by decide +kernel)⟩

/-- No prefix pending, a prefix pending that the build ignores, and an instruction that completes with one pending. -/
theorem test_witness_PrefixLatchesForOneInstruction :
    State.reset.prefixFree ∧ prefixIgnored.prefixFree ∧ (∀ a, Instr.addRI 1#4 2#4 ≠ .imm a) ∧
      ∃ t, exec (.addRI 1#4 2#4) (State.reset.setLatch 1#14) = .next t ∧ (!t.immv) = true :=
  ⟨by decide, by decide, fun _ => (nomatch ·), exists_of_nextWith (p := fun t => !t.immv) (by decide +kernel)⟩

theorem test_witness_PrefixBeforeOthers :
    (State.reset.setLatch 1#14).immv = true ∧ Format.takesPrefix (Instr.format .ret) = false ∧
      (State.reset.setLatch 1#14).hasUnitOf .ret = true ∧
      (State.reset.setLatch 1#14).cfg.immUndocumented = .refuse ∧
      prefixIgnored.immv = true ∧ prefixIgnored.hasUnitOf .ret = true ∧ prefixIgnored.cfg.immUndocumented = .ignore := by
  decide

/-- An absent unit of each kind under each policy, and the three ends of the exception it raises. -/
theorem test_witness_AbsentUnitTrapsOrRefuses :
    [Instr.bsl 0#4 15#4, .fint 3#2, .ldpid 0#4, .ldtlb 7#3 31#5].all (fun i => !(bare .illegal).hasUnitOf i) = true ∧
      (bare .illegal).cfg.unitAbsent = .illegal ∧ (bare .refuse).hasUnitOf (.bsr 0#4 0#4) = false ∧
      (bare .refuse).cfg.unitAbsent = .refuse ∧ (withE (bare .illegal)).canTrap ∧ (bare .illegal).msr.e = false ∧
      (withE (bare .illegal)).hasUnitOf (.fint 3#2) = false := by
  decide

theorem test_witness_AddAndAddWithCarry : State.reset.prefixFree ∧ prefixIgnored.prefixFree := by decide

theorem test_witness_SubtractAndBorrow : State.reset.prefixFree ∧ State.reset.cfg.subCarryIsBorrow = true := by decide

theorem test_witness_LogicOperations : State.reset.prefixFree ∧ State.reset.cfg.logicClearsCarry = true := by decide

theorem test_witness_OtherCarrySettings :
    let s := { State.reset with cfg := { State.reset.cfg with subCarryIsBorrow := false, logicClearsCarry := false } }
    s.prefixFree ∧ s.cfg.subCarryIsBorrow = false ∧ s.cfg.logicClearsCarry = false := by
  decide

theorem test_witness_CompareTestAndCopy :
    State.reset.prefixFree ∧ State.reset.cfg.subCarryIsBorrow = true ∧ State.reset.cfg.logicClearsCarry = true := by
  decide

theorem test_witness_LoadImmediate : State.reset.prefixFree ∧ prefixIgnored.prefixFree := by decide

theorem test_witness_LeftShifts : State.reset.prefixFree ∧ prefixIgnored.prefixFree := by decide

theorem test_witness_RightShifts : State.reset.prefixFree ∧ prefixIgnored.prefixFree := by decide

/-- Both settings of `ROTATE_THROUGH_CARRY`. -/
theorem test_witness_Rotates :
    let s := { State.reset with cfg := { State.reset.cfg with rotateThroughCarry := false } }
    State.reset.prefixFree ∧ State.reset.cfg.rotateThroughCarry = true ∧ s.prefixFree ∧ s.cfg.rotateThroughCarry = false := by
  decide

/-- Both settings of `PAIR_HIGH_FIRST`. -/
theorem test_witness_Multiply :
    let s := { State.reset with cfg := { State.reset.cfg with pairHighFirst := false } }
    State.reset.prefixFree ∧ State.reset.cfg.pairHighFirst = true ∧ s.prefixFree ∧ s.cfg.pairHighFirst = false := by
  decide

/-- A divisor that is not 0, in a register and immediate, with the largest quotient that fits and the smallest that
does not, unsigned and signed. -/
theorem test_witness_Divide :
    let s := start [(2#4, 1#16)]
    s.prefixFree ∧ s.reg 2#4 ≠ 0#16 ∧ BitVec.ofNat 16 (s.immediate 1#4) ≠ 0#16 ∧
      fittingQuotient 65535 = some 0xFFFF#16 ∧ fittingQuotient 65536 = none ∧
      fittingSignedQuotient (-32768) = some 0x8000#16 ∧ fittingSignedQuotient 32768 = none := by
  decide +kernel

/-- A divisor of 0 in a register and immediate, an odd index register with the address at the end of memory, each with
exceptions enabled, disabled and in progress. -/
theorem test_witness_OperandsThatTrap :
    [enabled, State.reset, inProgress].all (fun s =>
      decide (s.prefixFree) && decide (s.reg 2#4 = 0#16) && decide (s.immediate 0#4 = 0) &&
        decide (((s.setIndex 3#2 0xFFFFFF#32).index 3#2).toNat % 2 = 1) &&
        decide ((0xFFFFFF#32).toNat = (((s.setIndex 3#2 0xFFFFFF#32).index 3#2).toNat + 2 * (0#4).toNat) % 2 ^ 24)) = true ∧
      enabled.canTrap ∧ State.reset.msr.e = false ∧ (inProgress.msr.e = true ∧ inProgress.msr.eip = true) := by
  decide +kernel

theorem test_witness_BarrelShifts : State.reset.cfg.hasBarrel = true ∧ State.reset.prefixFree := by decide

theorem test_witness_FloatArithmetic :
    (State.reset.cfg.hasFpu = true ∧ State.reset.prefixFree) ∧
      (withE (bare .illegal)).cfg.hasFpu = false ∧ (withE (bare .illegal)).cfg.unitAbsent = .illegal ∧
      (withE (bare .illegal)).canTrap := by
  decide

theorem test_witness_FloatConversions :
    (State.reset.cfg.hasFpu = true ∧ State.reset.prefixFree) ∧
      (withE (bare .illegal)).cfg.hasFpu = false ∧ (withE (bare .illegal)).cfg.unitAbsent = .illegal ∧
      (withE (bare .illegal)).canTrap := by
  decide

theorem test_witness_FloatCompare :
    (State.reset.cfg.hasFpu = true ∧ State.reset.prefixFree) ∧
      (withE (bare .illegal)).cfg.hasFpu = false ∧ (withE (bare .illegal)).cfg.unitAbsent = .illegal ∧
      (withE (bare .illegal)).canTrap := by
  decide

/-- At both ends of the range. -/
theorem test_witness_IntegerFloatRoundTrip :
    [0x01000000#32, 0xFF000000#32].all (fun v =>
      let s := State.reset.setFpr 1#2 v
      s.cfg.hasFpu && decide (s.cfg.fpNumerics = .ieee754) && decide (s.prefixFree) &&
        decide ((s.fpr 1#2).toInt.natAbs ≤ 2 ^ 24) && nextWith (exec (.fflt 1#2) s) (fun _ => true)) = true := by
  decide +kernel

/-- Each suffix holds in one of two states and fails in the other. -/
theorem test_witness_AbsoluteJumps :
    State.reset.suffixHolds .always ∧ State.reset.suffixHolds .nz ∧ ¬ (withZ State.reset).suffixHolds .nz ∧
      (withZ State.reset).suffixHolds .z ∧ ¬ State.reset.suffixHolds .z ∧ State.reset.suffixHolds .nc ∧
      ¬ (withC State.reset).suffixHolds .nc ∧ (withC State.reset).suffixHolds .c ∧ ¬ State.reset.suffixHolds .c := by
  simp [State.suffixHolds, withZ, withC, State.setFlags, State.reset, State.resetOf, Msr.ofLong]

theorem test_witness_RelativeJumps :
    State.reset.prefixFree ∧ State.reset.countsWords ∧ (withZ State.reset).countsWords ∧ (withC State.reset).countsWords := by
  decide

/-- A taken and an untaken form on each flag. -/
theorem test_witness_AbsoluteCalls :
    (withZ State.reset).suffixHolds .z ∧ ¬ State.reset.suffixHolds .z ∧ (withC State.reset).suffixHolds .c ∧
      ¬ State.reset.suffixHolds .c := by
  simp [State.suffixHolds, withZ, withC, State.setFlags, State.reset, State.resetOf, Msr.ofLong]

theorem test_witness_RelativeCalls :
    State.reset.prefixFree ∧ State.reset.countsWords ∧ (withZ State.reset).countsWords ∧ (withC State.reset).countsWords := by
  decide

theorem test_witness_OtherRelativeSettings :
    let s := relative .next .two
    let r := relative .self .one
    s.prefixFree ∧ (s.cfg.relUnit = .two ∧ s.cfg.relBase = .next) ∧ r.prefixFree ∧ r.cfg.relUnit = .one := by
  decide

theorem test_witness_SupervisoryCall :
    State.reset.prefixFree ∧ State.reset.msr.eip = false ∧ inProgress.prefixFree ∧ inProgress.msr.eip = true := by
  decide

theorem test_witness_ReturnFromCall : State.reset.prefixFree ∧ (inUser State.reset).prefixFree := by decide

theorem test_witness_ReturnsFromTraps : State.reset.prefixFree ∧ State.reset.msr.um = false := by decide

theorem test_witness_SvcThenReteReturns :
    (inUser State.reset).pc.getLsbD 0 = false ∧ (inUser State.reset).immv = false ∧
      ∃ t, exec .svc (inUser State.reset) = .next t ∧ t.msr.eip = true :=
  ⟨rfl, rfl, exists_of_nextWith (p := fun t => t.msr.eip) (by decide +kernel)⟩

/-- Every privileged number, and no other. -/
theorem test_witness_PrivilegedRefused :
    (inUser State.reset).prefixFree ∧ (inUser State.reset).msr.um = true ∧ (inUser State.reset).cfg.hasMmu = true ∧
      [0#4, 2#4, 3#4, 4#4, 5#4, 6#4, 7#4].all (fun y => decide (privilegedSpr y)) = true ∧
      [1#4, 8#4, 11#4, 12#4, 15#4].all (fun y => decide (¬ privilegedSpr y)) = true := by
  decide

/-- Both ends of the absolute range; an even and an odd index register. -/
theorem test_witness_WordLoads :
    (isLowReg 0#4 = true ∧ isLowReg 1#4 = true) ∧
      (let s := State.reset.setLatch 0x3FFF#14
       BitVec.ofNat 24 (s.wordTarget 0x1FF#9) = 0xFFFFFE#24 ∧ s.isMemory .readWord 0xFFFFFE#24 ∧
         State.reset.isMemory .readWord (BitVec.ofNat 24 (State.reset.wordTarget 0#9))) ∧
      (let s := State.reset.setIndex 0#2 0xFFFFFFFE#32
       s.prefixFree ∧ (s.index 0#2).toNat % 2 = 0 ∧
         s.isMemory .readWord (BitVec.ofNat 24 ((s.index 0#2).toNat + 2 * (15#4).toNat))) ∧
      (let s := enabled.setIndex 0#2 0xFFFFFFFF#32
       s.prefixFree ∧ (s.index 0#2).toNat % 2 ≠ 0 ∧ s.canTrap) := by
  decide +kernel

theorem test_witness_WordStores :
    (isLowReg 0#4 = true ∧ isLowReg 1#4 = true) ∧
      (let s := State.reset.setLatch 0x3FFF#14
       s.absWord 0x1FF#9 = 0xFFFFFE#24 ∧ s.isMemory .writeWord (s.absWord 0x1FF#9) ∧
         State.reset.isMemory .writeWord (State.reset.absWord 0#9)) ∧
      (let s := State.reset.setIndex 0#2 0xFFFFFFFE#32
       s.prefixFree ∧ (s.index 0#2).toNat % 2 = 0 ∧ s.isMemory .writeWord (s.indexedWord 0#2 15#4)) ∧
      (let s := enabled.setIndex 0#2 0xFFFFFFFF#32
       s.prefixFree ∧ (s.index 0#2).toNat % 2 ≠ 0 ∧ s.canTrap) := by
  decide +kernel

/-- The last byte of memory, absolute and indexed, and both settings of `LDB_HIGH`. -/
theorem test_witness_ByteLoads :
    (isLowReg 0#4 = true ∧ isLowReg 1#4 = true) ∧
      (let s := State.reset.setLatch 0x3FFF#14
       BitVec.ofNat 24 (s.byteTarget 0x3FF#10) = 0xFFFFFF#24 ∧ s.isMemory .readByte 0xFFFFFF#24 ∧
         s.cfg.ldbHigh = .zero) ∧
      (let s := { State.reset.setIndex 0#2 0xFFFFF0#32 with cfg := { State.reset.cfg with ldbHigh := .preserve } }
       s.prefixFree ∧ BitVec.ofNat 24 ((s.index 0#2).toNat + (15#4).toNat) = 0xFFFFFF#24 ∧
         s.isMemory .readByte 0xFFFFFF#24 ∧ s.cfg.ldbHigh ≠ .zero) := by
  decide +kernel

theorem test_witness_ByteStores :
    (isLowReg 0#4 = true ∧ isLowReg 1#4 = true) ∧
      (let s := State.reset.setLatch 0x3FFF#14
       s.absByte 0x3FF#10 = 0xFFFFFF#24 ∧ s.isMemory .writeByte (s.absByte 0x3FF#10)) ∧
      (let s := State.reset.setIndex 0#2 0xFFFFF0#32
       s.prefixFree ∧ s.indexedByte 0#2 15#4 = 0xFFFFFF#24 ∧ s.isMemory .writeByte (s.indexedByte 0#2 15#4)) := by
  decide +kernel

/-- Absolute and indexed, at the ends of each range, the index register even. -/
theorem test_witness_PlatformDecidesAccess :
    (let s := (onPlatform []).setIndex 3#2 0xFFFFFFFE#32
     s.regionKind .readWord (s.absWord 0x1FF#9) = none ∧ s.regionKind .writeWord (s.absWord 0x1FF#9) = none ∧
       s.regionKind .readByte (s.absByte 0x3FF#10) = none ∧ s.regionKind .writeByte (s.absByte 0x3FF#10) = none ∧
       s.prefixFree ∧ (s.index 3#2).toNat % 2 = 0 ∧ s.regionKind .readWord (s.indexedWord 3#2 15#4) = none ∧
       s.regionKind .writeWord (s.indexedWord 3#2 15#4) = none ∧ s.regionKind .readByte (s.indexedByte 3#2 1#4) = none ∧
       s.regionKind .writeByte (s.indexedByte 3#2 1#4) = none) ∧
      (let s := (onPlatform [allDevice]).setIndex 3#2 0xFFFFFFFE#32
       s.regionKind .readWord (s.absWord 0x1FF#9) = some .device ∧
         s.regionKind .writeWord (s.absWord 0x1FF#9) = some .device ∧
         s.regionKind .readByte (s.absByte 0x3FF#10) = some .device ∧
         s.regionKind .writeByte (s.absByte 0x3FF#10) = some .device ∧
         s.prefixFree ∧ (s.index 3#2).toNat % 2 = 0 ∧ s.regionKind .readWord (s.indexedWord 3#2 15#4) = some .device ∧
         s.regionKind .writeWord (s.indexedWord 3#2 15#4) = some .device ∧
         s.regionKind .readByte (s.indexedByte 3#2 1#4) = some .device ∧
         s.regionKind .writeByte (s.indexedByte 3#2 1#4) = some .device) := by
  decide +kernel

/-- At both ends of the offset that two bytes can name, in a build of each byte order. -/
theorem test_witness_StoredWordLoadsBack :
    let s := start [(1#4, 0xBEEF#16)]
    let r := { s with cfg := { s.cfg with endian := .little, ldbHigh := .preserve } }
    (s.cfg.platform = [.allMemory] ∧ s.cfg.endian = .big ∧ (s.index 0#2).toNat % 2 = 0 ∧
      nextWith (exec (.stwIdx 1#4 0#2 7#4) s) (fun _ => true) = true ∧ (14#4).toNat = 2 * (7#4).toNat ∧
      (15#4).toNat = 2 * (7#4).toNat + 1 ∧ (0xBE#8).toNat = (s.reg 1#4).toNat / 256 ∧
      (0xEF#8).toNat = (s.reg 1#4).toNat % 256) ∧
    r.cfg.platform = [.allMemory] ∧ r.cfg.endian = .little ∧ (r.index 0#2).toNat % 2 = 0 ∧
      nextWith (exec (.stwIdx 1#4 0#2 0#4) r) (fun _ => true) = true ∧ (0#4).toNat = 2 * (0#4).toNat ∧
      (1#4).toNat = 2 * (0#4).toNat + 1 ∧ (0xEF#8).toNat = (r.reg 1#4).toNat % 256 ∧
      (0xBE#8).toNat = (r.reg 1#4).toNat / 256 := by
  decide +kernel

/-- A privileged register in kernel mode, an open one in user mode, an FP register with the unit and without. -/
theorem test_witness_SprReads :
    State.reset.prefixFree ∧ State.reset.sprOpen 0#4 ∧ (inUser State.reset).sprOpen 1#4 ∧
      (inUser State.reset).sprOpen 15#4 ∧ 12 ≤ (12#4).toNat ∧ (bare .illegal).cfg.hasFpu = false ∧
      (bare .illegal).prefixFree := by
  decide

theorem test_witness_SprWrites :
    State.reset.prefixFree ∧ State.reset.sprOpen 0#4 ∧ State.reset.sprOpen 5#4 ∧ (inUser State.reset).sprOpen 8#4 ∧
      (inUser State.reset).sprOpen 15#4 ∧ 12 ≤ (12#4).toNat ∧ (bare .illegal).cfg.hasFpu = false ∧
      (bare .illegal).prefixFree := by
  decide

theorem test_witness_IndexSteps : State.reset.prefixFree ∧ (inUser State.reset).prefixFree := by decide

theorem test_witness_IndexWordDecrement : State.reset.prefixFree ∧ (inUser State.reset).prefixFree := by decide

theorem test_witness_MmuLoads :
    State.reset.prefixFree ∧ State.reset.cfg.hasMmu = true ∧ State.reset.msr.um = false := by
  decide

end Sys2Proof.Tests
end

section
/-! PROOFS. The words of the instructions with two 4-bit fields, and with one: from the row of the opcode map and the
pattern of the encoder to `Encodes`. -/

namespace Sys2Proof.Machine

/-- The word of two fields over a base, as the concatenation the encoder writes. -/
theorem operandWord_append (high : BitVec 8) (low x b : BitVec 4) :
    operandWord (high ++ 0#4 ++ low) x b = high ++ x ++ (low ||| b) := by
  unfold operandWord
  ext i hi
  simp only [BitVec.getElem_or, BitVec.getElem_append, BitVec.getElem_shiftLeft, BitVec.getElem_setWidth]
  grind

/-- The middle field of three, as the decoder reads it. -/
theorem extractLsb'_middle_append (high : BitVec 8) (x b : BitVec 4) : (high ++ x ++ b).extractLsb' 4 4 = x :=
  (BitVec.extractLsb'_append_eq_of_le le_rfl).trans BitVec.extractLsb'_append_eq_right

/-- Row `n` of the map, if it fixes the high byte and reads the two fields below it, names the words the encoder writes
for them. -/
theorem encodes_twoFields (n : Nat) (high : BitVec 8) {base : Word} {form : BitVec 4 → BitVec 4 → Instr}
    (hrow : opcodeMap[n]? = some ⟨0xFF00#16, base, fun w => form (w.extractLsb' 4 4) (w.extractLsb' 0 4)⟩)
    (hbase : base = high ++ 0#4 ++ 0#4) (henc : ∀ x b, encode (form x b) = high ++ x ++ b) (x b : BitVec 4) :
    Encodes (operandWord base x b) (form x b) := by
  have hword : operandWord base x b = high ++ x ++ b := by rw [hbase, operandWord_append, BitVec.zero_or]
  have hmask : (high ++ x ++ b) &&& (BitVec.allOnes 8 ++ 0#4 ++ 0#4) = high ++ 0#4 ++ 0#4 := by
    simp only [BitVec.and_append, BitVec.and_zero, BitVec.and_allOnes]
  refine ⟨?_, by rw [henc, hword]⟩
  rw [hword, decodeWord_of_row (List.mem_of_getElem? hrow) (beq_iff_eq.2 (hmask.trans hbase.symm))]
  exact congrArg Except.ok (congrArg₂ form (extractLsb'_middle_append high x b) BitVec.extractLsb'_append_eq_right)

/-- Row `n` of the map, if it fixes the high byte and the low four bits and reads the field between them, in the same
way. -/
theorem encodes_oneField (n : Nat) (high : BitVec 8) (low : BitVec 4) {base : Word} {form : BitVec 4 → Instr}
    (hrow : opcodeMap[n]? = some ⟨0xFF0F#16, base, fun w => form (w.extractLsb' 4 4)⟩)
    (hbase : base = high ++ 0#4 ++ low) (henc : ∀ x, encode (form x) = high ++ x ++ low) (x : BitVec 4) :
    Encodes (operandWord base x 0#4) (form x) := by
  have hword : operandWord base x 0#4 = high ++ x ++ low := by rw [hbase, operandWord_append, BitVec.or_zero]
  have hmask : (high ++ x ++ low) &&& (BitVec.allOnes 8 ++ 0#4 ++ BitVec.allOnes 4) = high ++ 0#4 ++ low := by
    simp only [BitVec.and_append, BitVec.and_zero, BitVec.and_allOnes]
  refine ⟨?_, by rw [henc, hword]⟩
  rw [hword, decodeWord_of_row (List.mem_of_getElem? hrow) (beq_iff_eq.2 (hmask.trans hbase.symm))]
  exact congrArg (Except.ok ∘ form) (extractLsb'_middle_append high x low)

end Sys2Proof.Machine
end

section
/-! PROOFS. The forms of an ALU instruction: what the operation does on its operand is what each form of it does. -/

namespace Sys2Proof.Machine

/-- The immediate as a word is the immediate as a number; spec/30_encoding.md R110. -/
theorem aluImm_eq_ofNat_immediate (s : State) (b : BitVec 4) : s.aluImm b = BitVec.ofNat 16 (s.immediate b) := by
  unfold State.aluImm State.immediate
  split
  · apply BitVec.eq_of_toNat_eq
    simp only [BitVec.toNat_append, BitVec.extractLsb'_toNat, BitVec.toNat_ofNat, Nat.shiftRight_zero,
      Nat.shiftLeft_eq, ← Nat.mul_comm (2 ^ 4)]
    rw [← Nat.two_pow_add_eq_or_of_lt b.isLt]
    omega
  · rw [BitVec.ofNat_toNat]

/-- The field an `imm` needs to supply the high twelve bits of a constant; spec/30_encoding.md R110. -/
def highField (v : Word) : BitVec 14 := (v.extractLsb' 4 12).setWidth 14

/-- With that field pending, the low four bits of a constant are the immediate for all of it. -/
theorem aluImm_of_highField {s : State} {v : Word} (hpending : s.immv = true) (hfield : s.imma = highField v) :
    s.aluImm (v.extractLsb' 0 4) = v := by
  unfold State.aluImm highField at *
  rw [if_pos hpending, hfield]
  ext i hi
  simp only [BitVec.getElem_append, BitVec.getElem_extractLsb', BitVec.getLsbD_setWidth, BitVec.getLsbD_extractLsb']
  grind

/-- With nothing pending that refuses it, `imm` latches its field; spec/40_imm_prefix.md R140. -/
theorem exec_imm_latches {s : State} (a : BitVec 14) (hfree : s.prefixFree) :
    exec (.imm a) s = .next ((s.dropLatch.setLatch a).setPc s.npc) := by
  have hexec : exec (.imm a) s = unprefixed s fun u => .next ((u.setLatch a).setPc u.npc) := rfl
  rw [hexec, unprefixed_free _ hfree, dropLatch_npc]

/-- A two-register form that gives its operation `ry`, with no `imm` in the way, does what the operation does. -/
theorem registerForm_of_op {base : Word} {form : RegNum → RegNum → Instr} {runs : Word → State → Prop}
    {effect : RegNum → Word → State → State → Prop} (op : RegNum → Word → State → Result)
    (henc : ∀ x y, Encodes (operandWord base x y) (form x y))
    (hexec : ∀ x y s, exec (form x y) s = unprefixed s fun u => op x (u.reg y) u)
    (hop : ∀ x v s, runs v s → ∃ t, op x v s.dropLatch = .next t ∧ effect x v s t) :
    RegisterForm base form runs effect := by
  refine fun x y => ⟨henc x y, fun s hfree hs => ?_⟩
  rw [hexec, unprefixed_free _ hfree]
  exact hop x (s.reg y) s hs

/-- An immediate form that gives its operation the immediate does what the operation does. -/
theorem immediateForm_of_op {base : Word} {form : RegNum → BitVec 4 → Instr} {runs : Word → State → Prop}
    {effect : RegNum → Word → State → State → Prop} (op : RegNum → Word → State → Result)
    (henc : ∀ x b, Encodes (operandWord base x b) (form x b))
    (hexec : ∀ x b s, exec (form x b) s = op x (s.aluImm b) s)
    (hop : ∀ x v s, runs v s → ∃ t, op x v s = .next t ∧ effect x v s t) :
    ImmediateForm base form runs effect := by
  refine fun x b => ⟨henc x b, fun s hs => ?_⟩
  rw [hexec, aluImm_eq_ofNat_immediate]
  exact hop x _ s hs

/-- A one-register form, with no `imm` in the way, does what its operation does. -/
theorem oneRegisterForm_of_op {base : Word} {form : RegNum → Instr} {effect : RegNum → State → State → Prop}
    (op : RegNum → State → Result) (henc : ∀ x, Encodes (operandWord base x 0#4) (form x))
    (hexec : ∀ x s, exec (form x) s = unprefixed s fun u => op x u)
    (hop : ∀ x s, ∃ t, op x s.dropLatch = .next t ∧ effect x s t) :
    OneRegisterForm base form (fun _ => True) effect := by
  refine fun x => ⟨henc x, fun s hfree _ => ?_⟩
  rw [hexec, unprefixed_free _ hfree]
  exact hop x s

end Sys2Proof.Machine
end

section
/-! PROOFS. What each operation of the integer unit does on its second operand: the result, the flags and the frame
(spec/41_alu_integer.md R150 to R193). -/

namespace Sys2Proof.Machine

variable (x : RegNum) (v : Word) (s : State)

/-! ### Flags of an exact value -/

theorem isZero_eq_decide (w : Word) : isZero w = decide (w = 0#16) := rfl

theorem isZero_ofNat (n : Nat) : isZero (BitVec.ofNat 16 n) = decide (n % 2 ^ 16 = 0) := by
  rw [isZero_eq_decide, decide_eq_decide, ← BitVec.toNat_inj, BitVec.toNat_ofNat, BitVec.toNat_zero]

theorem isZero_ofInt (d : Int) : isZero (BitVec.ofInt 16 d) = decide (d % 2 ^ 16 = 0) := by
  rw [isZero_eq_decide, decide_eq_decide, ← BitVec.toNat_inj, BitVec.toNat_ofInt, BitVec.toNat_zero]
  omega

/-! ### Completing after a write -/

/-- Whatever the user registers, the flags and `pc` become, the rest of the core is as it was. -/
theorem keepsSystem_of_flags (regs : Vector Word 16) (z c : Bool) (pc : Addr) :
    KeepsSystem s { s with regs := regs, msr := { s.msr with z := z, c := c }, immv := false, pc := pc } :=
  ⟨⟨rfl, ⟨rfl, rfl, rfl⟩, rfl, rfl, rfl⟩, fun _ => rfl, fun _ => rfl, ⟨rfl, fun _ => rfl⟩,
      ⟨rfl, rfl, rfl, rfl, rfl, rfl, rfl, rfl⟩, rfl, rfl, rfl⟩

/-- A result put into `rx` with its flags, and nothing else changed. -/
theorem complete_putResult (c : Bool) :
    ∃ t, complete (s.putResult x v c) = .next t ∧ WritesReg x v (isZero v) c s t :=
  ⟨_, complete_eq _, reg_setReg_same s x v, rfl, rfl, fun _ hr => reg_setReg_ne s v hr, ⟨fun _ => rfl, rfl⟩,
    keepsSystem_of_flags s _ _ _ _, rfl, rfl⟩

/-- `load`: a value put into `rx`, and nothing else changed. -/
theorem loadWith_loads : ∃ t, loadWith x v s = .next t ∧ LoadsReg x v s t :=
  ⟨_, complete_eq _, reg_setReg_same s x v, fun _ hr => reg_setReg_ne s v hr, ⟨rfl, rfl⟩, ⟨fun _ => rfl, rfl⟩,
    keepsSystem_of_flags s _ s.msr.z s.msr.c _, rfl, rfl⟩

/-! ### Subtraction -/

/-- The result and the borrow of an exact difference `d`, completed. -/
theorem complete_putResult_subtracts (h : s.cfg.subCarryIsBorrow = true) (d : Int) :
    ∃ t, complete (s.putResult x (BitVec.ofInt 16 d) (s.carryOfBorrow (decide (d < 0)))) = .next t ∧
      SubtractsTo x d s t := by
  have hcarry : s.carryOfBorrow (decide (d < 0)) = decide (d < 0) := if_pos h
  unfold SubtractsTo
  rw [hcarry, ← isZero_ofInt]
  exact complete_putResult x _ s _

theorem subWith_subtracts (h : s.cfg.subCarryIsBorrow = true) :
    ∃ t, subWith x v s = .next t ∧ SubtractsTo x ((s.reg x).toNat - v.toNat : Int) s t := by
  have hd : ((s.reg x).toNat - v.toNat : Int) = (s.reg x).toNat - v.toNat - false.toNat := by simp
  rw [hd]
  exact complete_putResult_subtracts x s h _

theorem sbbWith_subtracts (h : s.cfg.subCarryIsBorrow = true) :
    ∃ t, sbbWith x v s = .next t ∧ SubtractsTo x ((s.reg x).toNat - v.toNat - s.msr.c.toNat : Int) s t := by
  have hin : s.msr.c = s.borrowIn := (if_pos h).symm
  rw [hin]
  exact complete_putResult_subtracts x s h _

/-! ### Logic -/

/-- A bitwise result, completed with `C` cleared. -/
theorem complete_putResult_logic (h : s.cfg.logicClearsCarry = true) :
    ∃ t, complete (s.putResult x v s.logicCarry) = .next t ∧ LogicTo x v false s t := by
  have hcarry : s.logicCarry = false := if_pos h
  unfold LogicTo
  rw [hcarry, ← isZero_eq_decide]
  exact complete_putResult x v s false

theorem andWith_writes (h : s.cfg.logicClearsCarry = true) :
    ∃ t, andWith x v s = .next t ∧ LogicTo x (s.reg x &&& v) false s t := complete_putResult_logic x _ s h

theorem orWith_writes (h : s.cfg.logicClearsCarry = true) :
    ∃ t, orWith x v s = .next t ∧ LogicTo x (s.reg x ||| v) false s t := complete_putResult_logic x _ s h

theorem xorWith_writes (h : s.cfg.logicClearsCarry = true) :
    ∃ t, xorWith x v s = .next t ∧ LogicTo x (s.reg x ^^^ v) false s t := complete_putResult_logic x _ s h

/-! ### Shifts by one -/

theorem shiftLeft_eq (a : Word) (low : Bool) :
    shiftLeft a low = (BitVec.ofNat 16 (2 * a.toNat + low.toNat), decide (2 ^ 15 ≤ a.toNat)) := by
  have hv : (a.extractLsb' 0 15 : BitVec 15) ++ bit low = BitVec.ofNat 16 (2 * a.toNat + low.toNat) := by
    apply BitVec.eq_of_toNat_eq
    simp only [bit, BitVec.toNat_append, BitVec.extractLsb'_toNat, BitVec.toNat_ofBool, BitVec.toNat_ofNat,
      Nat.shiftRight_zero]
    have hlow : low.toNat < 2 ^ 1 := low.toNat_lt
    rw [← Nat.shiftLeft_add_eq_or_of_lt hlow, Nat.shiftLeft_eq]
    omega
  have hc : a.getLsbD 15 = decide (2 ^ 15 ≤ a.toNat) := BitVec.msb_eq_decide a
  rw [shiftLeft, hv, hc]

theorem shiftRight_eq (a : Word) (high : Bool) :
    shiftRight a high = (BitVec.ofNat 16 (a.toNat / 2 + 2 ^ 15 * high.toNat), decide (a.toNat % 2 = 1)) := by
  have hv : bit high ++ (a.extractLsb' 1 15 : BitVec 15) = BitVec.ofNat 16 (a.toNat / 2 + 2 ^ 15 * high.toNat) := by
    apply BitVec.eq_of_toNat_eq
    simp only [bit, BitVec.toNat_append, BitVec.extractLsb'_toNat, BitVec.toNat_ofBool, BitVec.toNat_ofNat,
      Nat.shiftRight_eq_div_pow]
    rw [← Nat.shiftLeft_add_eq_or_of_lt (Nat.mod_lt _ (by decide)), Nat.shiftLeft_eq]
    have := high.toNat_le
    omega
  have hc : a.getLsbD 0 = decide (a.toNat % 2 = 1) := Nat.testBit_zero a.toNat
  rw [shiftRight, hv, hc]

theorem shiftLeftWith_shifts (low : Bool) : ∃ t, shiftLeftWith x low s = .next t ∧ ShiftsLeft x low s t := by
  unfold shiftLeftWith ShiftsLeft
  rw [shiftLeft_eq, ← isZero_ofNat]
  exact complete_putResult x _ s _

theorem shiftRightWith_shifts (high : Bool) : ∃ t, shiftRightWith x high s = .next t ∧ ShiftsRight x high s t := by
  have hlt : (s.reg x).toNat / 2 + 2 ^ 15 * high.toNat < 2 ^ 16 := by
    have := high.toNat_le
    omega
  unfold shiftRightWith ShiftsRight
  rw [shiftRight_eq, ← Nat.mod_eq_of_lt hlt, ← isZero_ofNat, Nat.mod_eq_of_lt hlt]
  exact complete_putResult x _ s _

variable {x s} {t : State}

/-- A 1 shifted in at bit 0 leaves no zero. -/
theorem ShiftsLeft.notZero (h : ShiftsLeft x true s t) : t.msr.z = false := by
  obtain ⟨_, hz, _⟩ := h
  rw [hz, decide_eq_false_iff_not, Bool.toNat_true]
  omega

/-- A 1 shifted in at bit 15 leaves no zero. -/
theorem ShiftsRight.notZero (h : ShiftsRight x true s t) : t.msr.z = false := by
  obtain ⟨_, hz, _⟩ := h
  rw [hz, decide_eq_false_iff_not, Bool.toNat_true]
  omega

end Sys2Proof.Machine
end

section
/-! PROOFS. The statements about the integer unit of class ALU (spec/41_alu_integer.md): each form is a row of the
opcode map that hands its operand to one of the operations above. -/

namespace Sys2Proof.Machine

/-- Settles O24: the forms hand their operand to `subWith` and `sbbWith`, which write the exact difference. -/
theorem subtractAndBorrow : Obligations.SubtractAndBorrow :=
  ⟨registerForm_of_op subWith (encodes_twoFields 5 0x48#8 rfl rfl fun _ _ => rfl)
      (fun _ _ _ => rfl) fun x v s => subWith_subtracts x v s.dropLatch,
    immediateForm_of_op subWith (encodes_twoFields 6 0x68#8 rfl rfl fun _ _ => rfl)
      (fun _ _ _ => rfl) subWith_subtracts,
    registerForm_of_op sbbWith (encodes_twoFields 7 0x58#8 rfl rfl fun _ _ => rfl)
      (fun _ _ _ => rfl) fun x v s => sbbWith_subtracts x v s.dropLatch,
    immediateForm_of_op sbbWith (encodes_twoFields 8 0x78#8 rfl rfl fun _ _ => rfl)
      (fun _ _ _ => rfl) sbbWith_subtracts⟩

/-- Settles O25: the forms hand their operand to `andWith`, `orWith` and `xorWith`, each a bitwise result completed
with `C` cleared. -/
theorem logicOperations : Obligations.LogicOperations :=
  ⟨registerForm_of_op andWith (encodes_twoFields 9 0x44#8 rfl rfl fun _ _ => rfl)
      (fun _ _ _ => rfl) fun x v s => andWith_writes x v s.dropLatch,
    immediateForm_of_op andWith (encodes_twoFields 10 0x64#8 rfl rfl fun _ _ => rfl)
      (fun _ _ _ => rfl) andWith_writes,
    registerForm_of_op orWith (encodes_twoFields 11 0x54#8 rfl rfl fun _ _ => rfl)
      (fun _ _ _ => rfl) fun x v s => orWith_writes x v s.dropLatch,
    immediateForm_of_op orWith (encodes_twoFields 12 0x74#8 rfl rfl fun _ _ => rfl)
      (fun _ _ _ => rfl) orWith_writes,
    registerForm_of_op xorWith (encodes_twoFields 13 0x4C#8 rfl rfl fun _ _ => rfl)
      (fun _ _ _ => rfl) fun x v s => xorWith_writes x v s.dropLatch,
    immediateForm_of_op xorWith (encodes_twoFields 14 0x6C#8 rfl rfl fun _ _ => rfl)
      (fun _ _ _ => rfl) xorWith_writes⟩

/-- Settles O28: both steps of the second part are explicit, `imm` of `highField v` and `load` of the low four bits. -/
theorem loadImmediate : Obligations.LoadImmediate := by
  refine ⟨immediateForm_of_op loadWith
      (encodes_twoFields 30 0x6A#8 rfl rfl fun _ _ => rfl) (fun _ _ _ => rfl)
      fun x v s _ => loadWith_loads x v s, fun x v s hfree => ?_⟩
  obtain ⟨u, hload, hx, _⟩ := loadWith_loads x v ((s.dropLatch.setLatch (highField v)).setPc s.npc)
  refine ⟨_, v.extractLsb' 0 4, _, u, exec_imm_latches (highField v) hfree, ?_, hx⟩
  show loadWith x (State.aluImm _ _) _ = _
  rw [aluImm_of_highField rfl rfl, hload]

/-- Settles O29: the four instructions are `shiftLeftWith` of the bit that enters; a word with bit 0 set is not zero. -/
theorem leftShifts : Obligations.LeftShifts :=
  ⟨oneRegisterForm_of_op (fun x s => shiftLeftWith x s.msr.c s)
      (encodes_oneField 15 0x5C#8 0#4 rfl rfl fun _ => rfl)
      (fun _ _ => rfl) fun x s => shiftLeftWith_shifts x s.dropLatch s.msr.c,
    oneRegisterForm_of_op (fun x s => shiftLeftWith x ((s.reg x).getLsbD 0) s)
      (encodes_oneField 16 0x5C#8 1#4 rfl rfl fun _ => rfl)
      (fun _ _ => rfl) fun x s => shiftLeftWith_shifts x s.dropLatch ((s.reg x).getLsbD 0),
    oneRegisterForm_of_op (fun x s => shiftLeftWith x false s)
      (encodes_oneField 17 0x5C#8 2#4 rfl rfl fun _ => rfl)
      (fun _ _ => rfl) fun x s => shiftLeftWith_shifts x s.dropLatch false,
    oneRegisterForm_of_op (fun x s => shiftLeftWith x true s)
      (encodes_oneField 18 0x5C#8 3#4 rfl rfl fun _ => rfl)
      (fun _ _ => rfl) fun x s =>
        (shiftLeftWith_shifts x s.dropLatch true).imp fun _ ⟨hnext, ht⟩ => ⟨hnext, ht, ht.notZero⟩⟩

/-- Settles O30: the four instructions are `shiftRightWith` of the bit that enters; a word with bit 15 set is not
zero. -/
theorem rightShifts : Obligations.RightShifts :=
  ⟨oneRegisterForm_of_op (fun x s => shiftRightWith x s.msr.c s)
      (encodes_oneField 20 0x7C#8 0#4 rfl rfl fun _ => rfl)
      (fun _ _ => rfl) fun x s => shiftRightWith_shifts x s.dropLatch s.msr.c,
    oneRegisterForm_of_op (fun x s => shiftRightWith x ((s.reg x).getLsbD 15) s)
      (encodes_oneField 21 0x7C#8 1#4 rfl rfl fun _ => rfl)
      (fun _ _ => rfl) fun x s => shiftRightWith_shifts x s.dropLatch ((s.reg x).getLsbD 15),
    oneRegisterForm_of_op (fun x s => shiftRightWith x false s)
      (encodes_oneField 22 0x7C#8 2#4 rfl rfl fun _ => rfl)
      (fun _ _ => rfl) fun x s => shiftRightWith_shifts x s.dropLatch false,
    oneRegisterForm_of_op (fun x s => shiftRightWith x true s)
      (encodes_oneField 23 0x7C#8 3#4 rfl rfl fun _ => rfl)
      (fun _ _ => rfl) fun x s =>
        (shiftRightWith_shifts x s.dropLatch true).imp fun _ ⟨hnext, ht⟩ => ⟨hnext, ht, ht.notZero⟩⟩

end Sys2Proof.Machine
end

section
/-! PROOFS. The words of the FPU's instructions: from the row of the opcode map and the pattern of the encoder to
`Encodes` (spec/43_alu_float.md R207 to R213). -/

namespace Sys2Proof.Machine

/-- A word that row `n` of the map accepts and builds the instruction from encodes it, if the encoder writes that
word. -/
theorem encodes_of_row (n : Nat) {r : Row} {w : Word} {i : Instr} (hrow : opcodeMap[n]? = some r)
    (haccepts : w &&& r.mask = r.pattern) (hbuild : r.build w = i) (henc : encode i = w) : Encodes w i :=
  ⟨hbuild ▸ decodeWord_of_row (List.mem_of_getElem? hrow) (beq_iff_eq.2 haccepts), henc⟩

/-- The middle field of three, of whatever widths. -/
theorem extractLsb'_middle_field {m n k : Nat} (high : BitVec m) (u : BitVec n) (v : BitVec k) :
    (high ++ u ++ v).extractLsb' k n = u :=
  (BitVec.extractLsb'_append_eq_of_le le_rfl).trans <| by
    rw [Nat.sub_self]; exact BitVec.extractLsb'_append_eq_right

/-- The word of two 2-bit fields over a base, as the concatenation the encoder writes. -/
theorem floatWord_append (high : BitVec 12) (u v : BitVec 2) : floatWord (high ++ 0#2 ++ 0#2) u v = high ++ u ++ v := by
  unfold floatWord
  ext i hi
  simp only [BitVec.getElem_or, BitVec.getElem_append, BitVec.getElem_shiftLeft, BitVec.getElem_setWidth]
  grind

/-- Row `n` of the map, if it fixes the high twelve bits and reads the two fields below them, names the words the
encoder writes for them. -/
theorem encodes_twoFpFields (n : Nat) (high : BitVec 12) {base : Word} {form : BitVec 2 → BitVec 2 → Instr}
    (hrow : opcodeMap[n]? = some ⟨0xFFF0#16, base, fun w => form (w.extractLsb' 2 2) (w.extractLsb' 0 2)⟩)
    (hbase : base = high ++ 0#2 ++ 0#2) (henc : ∀ u v, encode (form u v) = high ++ u ++ v) (u v : BitVec 2) :
    Encodes (floatWord base u v) (form u v) := by
  have hmask : (high ++ u ++ v) &&& (BitVec.allOnes 12 ++ 0#2 ++ 0#2) = high ++ 0#2 ++ 0#2 := by
    simp only [BitVec.and_append, BitVec.and_zero, BitVec.and_allOnes]
  rw [hbase, floatWord_append]
  exact encodes_of_row n hrow (hmask.trans hbase.symm)
    (congrArg₂ form (extractLsb'_middle_field high u v) BitVec.extractLsb'_append_eq_right) (henc u v)

/-- Row `n` of the map, if it fixes the high twelve bits and the low two, which are 0, and reads the field between
them, in the same way. -/
theorem encodes_oneFpField (n : Nat) (high : BitVec 12) {base : Word} {form : BitVec 2 → Instr}
    (hrow : opcodeMap[n]? = some ⟨0xFFF3#16, base, fun w => form (w.extractLsb' 2 2)⟩)
    (hbase : base = high ++ 0#2 ++ 0#2) (henc : ∀ u, encode (form u) = high ++ u ++ 0#2) (u : BitVec 2) :
    Encodes (floatWord base u 0#2) (form u) := by
  have hmask : (high ++ u ++ 0#2) &&& (BitVec.allOnes 12 ++ 0#2 ++ BitVec.allOnes 2) = high ++ 0#2 ++ 0#2 := by
    simp only [BitVec.and_append, BitVec.and_zero, BitVec.and_allOnes]
  rw [hbase, floatWord_append]
  exact encodes_of_row n hrow (hmask.trans hbase.symm) (congrArg form (extractLsb'_middle_field high u 0#2)) (henc u)

end Sys2Proof.Machine
end

section
/-! PROOFS. The forms of an FPU instruction: with the unit it does what its operation does, without it the opcode is
illegal (spec/43_alu_float.md R205). -/

namespace Sys2Proof.Machine

/-- What `ELR` receives, as the statements write it; spec/60_exceptions.md R305. -/
theorem trapLink_eq_ite (s : State) : s.trapLink = if s.cfg.trapLink = .next then s.pc + 2#24 else s.pc := by
  unfold State.trapLink
  cases s.cfg.trapLink <;> rfl

/-- What entering an exception changes, and what it leaves as it was; spec/60_exceptions.md R305. -/
theorem enterException_enters (x : Exc) (s : State) : EntersException x.code (s.earAfter x) s (s.enterException x) := by
  have hkernel : EntersKernelAt 8#24 s (s.enterException x) :=
    ⟨rfl, rfl, rfl, rfl, rfl, rfl, rfl, fun _ => rfl, ⟨rfl, rfl⟩, ⟨fun _ => rfl, rfl⟩, rfl, ⟨rfl, rfl, rfl⟩,
      fun _ => rfl, fun _ => rfl, ⟨rfl, fun _ => rfl⟩, rfl⟩
  exact ⟨hkernel, rfl, rfl, rfl, rfl, rfl, congrArg (BitVec.setWidth 32) (trapLink_eq_ite s), rfl, rfl⟩

/-- Where an exception can be taken, raising it enters it; spec/60_exceptions.md R305 to R307. -/
theorem raise_of_canTrap (x : Exc) {s : State} (h : s.canTrap) : raise x s = .next (s.enterException x) := by
  obtain ⟨he, heip⟩ := h
  simp [raise, he, heip]

/-- An instruction whose unit is absent is an illegal opcode, under the policy that says so; spec/30_encoding.md
R126. -/
theorem needsUnit_absent {present : Bool} {s : State} (k : State → Result) (habsent : present = false)
    (hpolicy : s.cfg.unitAbsent = .illegal) (htrap : s.canTrap) :
    ∃ t, needsUnit present s k = .next t ∧ EntersException 3#4 s.ear s t := by
  refine ⟨s.enterException .illegalOpcode, ?_, enterException_enters .illegalOpcode s⟩
  rw [← raise_of_canTrap .illegalOpcode htrap, needsUnit, habsent, hpolicy]
  rfl

/-- With the FPU and no `imm` in the way, an FP instruction runs on the state without the latch. -/
theorem floatUnit_present {s : State} (k : State → Result) (hfpu : s.cfg.hasFpu = true) (hfree : s.prefixFree) :
    floatUnit s k = k s.dropLatch := by
  rw [floatUnit, needsUnit, if_pos hfpu, unprefixed_free k hfree]

/-- `FPu` written with the flags left open, and nothing else changed; spec/43_alu_float.md R207. -/
theorem floatTo_writes (u : BitVec 2) (v : Long) (s : State) : ∃ t, floatTo u v s = .next t ∧ WritesFp u v s t :=
  ⟨_, complete_eq _, fpr_setFpr_same s u v, fun _ hw => fpr_setFpr_ne s v hw, fun _ => rfl, ⟨fun _ => rfl, rfl⟩,
    ⟨rfl, ⟨rfl, rfl, rfl⟩, rfl, rfl, rfl⟩, fun _ => rfl, ⟨rfl, fun _ => rfl⟩,
    ⟨rfl, rfl, rfl, rfl, rfl, rfl, rfl, rfl⟩, ⟨rfl, rfl, rfl⟩, rfl, rfl⟩

/-- A two-register form that gives its operation `FPv` does what the operation does. -/
theorem floatForm_of_op {base : Word} {form : BitVec 2 → BitVec 2 → Instr}
    {effect : BitVec 2 → Long → State → State → Prop} (op : BitVec 2 → Long → State → Result)
    (henc : ∀ u v, Encodes (floatWord base u v) (form u v))
    (hexec : ∀ u v s, exec (form u v) s = floatUnit s fun r => op u (r.fpr v) r)
    (hop : ∀ u w s, ∃ t, op u w s.dropLatch = .next t ∧ effect u w s t) : FloatForm base form effect := by
  refine fun u v => ⟨henc u v, fun s hfpu hfree => ?_, fun s hfpu hpolicy htrap => ?_⟩
  · rw [hexec, floatUnit_present _ hfpu hfree]
    exact hop u (s.fpr v) s
  · rw [hexec]
    exact needsUnit_absent _ hfpu hpolicy htrap

/-- A one-register form does what its operation does. -/
theorem oneFloatForm_of_op {base : Word} {form : BitVec 2 → Instr} {effect : BitVec 2 → State → State → Prop}
    (op : BitVec 2 → State → Result) (henc : ∀ u, Encodes (floatWord base u 0#2) (form u))
    (hexec : ∀ u s, exec (form u) s = floatUnit s fun r => op u r)
    (hop : ∀ u s, ∃ t, op u s.dropLatch = .next t ∧ effect u s t) : OneFloatForm base form effect := by
  refine fun u => ⟨henc u, fun s hfpu hfree => ?_, fun s hfpu hpolicy htrap => ?_⟩
  · rw [hexec, floatUnit_present _ hfpu hfree]
    exact hop u s
  · rw [hexec]
    exact needsUnit_absent _ hfpu hpolicy htrap

end Sys2Proof.Machine
end

section
/-! PROOFS. The statements about the FPU (spec/43_alu_float.md): each form is a row of the opcode map that writes the
configuration function of its operands by `floatTo`. -/

namespace Sys2Proof.Machine

/-- Settles O36: the four forms hand `FPv` to `floatTo` of their configuration function. -/
theorem floatArithmetic : Obligations.FloatArithmetic :=
  ⟨floatForm_of_op (fun u w s => floatTo u (s.fpMul (s.fpr u) w) s)
      (encodes_twoFpFields 41 0x430#12 rfl rfl fun _ _ => rfl)
      (fun _ _ _ => rfl) fun u _ s => floatTo_writes u _ s.dropLatch,
    floatForm_of_op (fun u w s => floatTo u (s.fpDiv (s.fpr u) w) s)
      (encodes_twoFpFields 42 0x630#12 rfl rfl fun _ _ => rfl)
      (fun _ _ _ => rfl) fun u _ s => floatTo_writes u _ s.dropLatch,
    floatForm_of_op (fun u w s => floatTo u (s.fpAdd (s.fpr u) w) s)
      (encodes_twoFpFields 43 0x530#12 rfl rfl fun _ _ => rfl)
      (fun _ _ _ => rfl) fun u _ s => floatTo_writes u _ s.dropLatch,
    floatForm_of_op (fun u w s => floatTo u (s.fpSub (s.fpr u) w) s)
      (encodes_twoFpFields 44 0x730#12 rfl rfl fun _ _ => rfl)
      (fun _ _ _ => rfl) fun u _ s => floatTo_writes u _ s.dropLatch⟩

/-- Settles O37: the two forms are `floatTo` of their configuration function of `FPu` itself. -/
theorem floatConversions : Obligations.FloatConversions :=
  ⟨oneFloatForm_of_op (fun u s => floatTo u (s.fpToInt (s.fpr u)) s)
      (encodes_oneFpField 46 0x6B0#12 rfl rfl fun _ => rfl)
      (fun _ _ => rfl) fun u s => floatTo_writes u _ s.dropLatch,
    oneFloatForm_of_op (fun u s => floatTo u (s.intToFp (s.fpr u)) s)
      (encodes_oneFpField 47 0x5B0#12 rfl rfl fun _ => rfl)
      (fun _ _ => rfl) fun u s => floatTo_writes u _ s.dropLatch⟩

end Sys2Proof.Machine
end

section
/-! PROOFS. The words of the jumps and calls: from the row of the opcode map and the pattern of the encoder to `Encodes`
(spec/44_flow_control.md R221, R222). -/

namespace Sys2Proof.Machine

/-- Row `n` of the map, if it fixes the high seven bits and reads the field below them, names the words the encoder
writes for it. -/
theorem encodes_targetField (n : Nat) (high : BitVec 7) {base : Word} {form : BitVec 9 → Instr}
    (hrow : opcodeMap[n]? = some ⟨0xFE00#16, base, fun w => form (w.extractLsb' 0 9)⟩)
    (hbase : base = high ++ 0#9) (henc : ∀ c, encode (form c) = high ++ c) (c : BitVec 9) :
    Encodes (base ||| c.setWidth 16) (form c) := by
  have hfield : c.setWidth 16 = 0#7 ++ c := BitVec.setWidth_eq_append (by decide)
  have hword : base ||| c.setWidth 16 = high ++ c := by
    rw [hbase, hfield, BitVec.or_append, BitVec.or_zero, BitVec.zero_or]
  have hmask : (high ++ c) &&& (BitVec.allOnes 7 ++ 0#9) = high ++ 0#9 := by
    rw [BitVec.and_append, BitVec.and_zero, BitVec.and_allOnes]
  rw [hword]
  exact encodes_of_row n hrow (hmask.trans hbase.symm) (congrArg form BitVec.extractLsb'_append_eq_right) (henc c)

end Sys2Proof.Machine
end

section
/-! PROOFS. The targets of class FC as the statements write them: absolute, relative, and the address a link register
holds (spec/44_flow_control.md R221, R222, spec/10_state.md R35). -/

namespace Sys2Proof.Machine

variable (s : State) (c : BitVec 9)

/-- The word address that the field of an `imm` and an instruction's make, as a number; spec/30_encoding.md R111. -/
theorem append_append_zero_eq_ofNat (a : BitVec 14) :
    a ++ c ++ 0#1 = BitVec.ofNat 24 (1024 * a.toNat + 2 * c.toNat) := by
  apply BitVec.eq_of_toNat_eq
  rw [BitVec.toNat_append, BitVec.toNat_append, ← Nat.shiftLeft_add_eq_or_of_lt c.isLt,
    ← Nat.shiftLeft_add_eq_or_of_lt (0#1).isLt, BitVec.toNat_ofNat, BitVec.toNat_ofNat, Nat.shiftLeft_eq,
    Nat.shiftLeft_eq]
  omega

/-- Without an `imm` the high field is 0; spec/30_encoding.md R111. -/
theorem absWord_eq_ofNat_wordTarget : s.absWord c = BitVec.ofNat 24 (s.wordTarget c) := by
  unfold State.absWord State.wordTarget
  split
  · exact append_append_zero_eq_ofNat c s.imma
  · have hzero : (c ++ 0#1).setWidth 24 = 0#14 ++ c ++ 0#1 := by grind
    rw [hzero, append_append_zero_eq_ofNat, BitVec.toNat_zero, Nat.mul_zero, Nat.zero_add]

/-- The base of a relative target, as the statements write it; spec/44_flow_control.md R222. -/
theorem relBase_eq_countedFrom : s.relBase = s.countedFrom := by
  unfold State.relBase State.countedFrom
  cases s.cfg.relBase <;> rfl

/-- With counts of two bytes the relative target is the signed count of instructions from its base;
spec/44_flow_control.md R222. -/
theorem relTarget_eq_wordsAway (hunit : s.cfg.relUnit = .two) : s.relTarget c = s.wordsAway c := by
  unfold State.relTarget State.wordsAway
  rw [hunit, relBase_eq_countedFrom, BitVec.ofInt_mul]
  rfl

/-- Bits 23:1 of a link register as a number; spec/10_state.md R35. -/
theorem linkAddr_eq_ofNat (v : Long) : linkAddr v = BitVec.ofNat 24 (v.toNat % 2 ^ 24 / 2 * 2) := by
  apply BitVec.eq_of_toNat_eq
  rw [linkAddr, BitVec.toNat_append, ← Nat.shiftLeft_add_eq_or_of_lt (0#1).isLt, BitVec.extractLsb'_toNat,
    BitVec.toNat_ofNat, BitVec.toNat_ofNat, Nat.shiftLeft_eq, Nat.shiftRight_eq_div_pow]
  omega

end Sys2Proof.Machine
end

section
/-! PROOFS. What every jump and every call does once its target is known: the two ends of each, and the frame
(spec/44_flow_control.md R220, R223). -/

namespace Sys2Proof.Machine

variable (k : Cond) (a : Addr) (s : State)

theorem holds_iff_suffixHolds : s.holds k = true ↔ s.suffixHolds k := by
  cases k <;> simp [State.holds, State.suffixHolds]

/-- The latch consumed and `pc` written, and nothing else changed. -/
theorem setPc_dropLatch_goesTo : GoesTo a s (s.dropLatch.setPc a) :=
  ⟨rfl, rfl, fun _ => rfl, ⟨rfl, rfl⟩, ⟨fun _ => rfl, rfl⟩, keepsSystem_of_flags s s.regs s.msr.z s.msr.c a⟩

/-- The same with a link written. -/
theorem setPc_setLr_callsTo (link : Long) : CallsTo a link s ((s.dropLatch.setLr link).setPc a) :=
  ⟨rfl, rfl, rfl, fun _ => rfl, ⟨rfl, rfl⟩, ⟨fun _ => rfl, rfl⟩, ⟨rfl, rfl, rfl⟩, ⟨rfl, rfl, rfl⟩, fun _ => rfl,
    fun _ => rfl, ⟨rfl, fun _ => rfl⟩, ⟨rfl, rfl, rfl, rfl, rfl, rfl, rfl, rfl⟩, rfl, rfl, rfl⟩

/-- Every jump; spec/44_flow_control.md R223. -/
theorem jumpIf_jumps : ∃ t, jumpIf k a s = .next t ∧ JumpsBy k a s t := by
  refine ⟨_, rfl, fun htaken => ?_, fun huntaken => ?_⟩
  · rw [if_pos ((holds_iff_suffixHolds k s).2 htaken)]
    exact setPc_dropLatch_goesTo a s
  · rw [if_neg (mt (holds_iff_suffixHolds k s).1 huntaken)]
    exact setPc_dropLatch_goesTo s.npc s

/-- Every call; spec/44_flow_control.md R223. -/
theorem callIf_calls : ∃ t, callIf k a s = .next t ∧ CallsBy k a s t := by
  unfold callIf
  split
  next hholds =>
    have htaken := (holds_iff_suffixHolds k s).1 hholds
    exact ⟨_, rfl, fun _ => setPc_setLr_callsTo a s (s.npc.setWidth 32), fun huntaken => absurd htaken huntaken⟩
  next hholds =>
    have huntaken := mt (holds_iff_suffixHolds k s).2 hholds
    exact ⟨_, complete_eq s, fun htaken => absurd htaken huntaken, fun _ => setPc_dropLatch_goesTo s.npc s⟩

end Sys2Proof.Machine
end

section
/-! PROOFS. The forms of a jump or call: what the operation does with its target is what each form of it does. -/

namespace Sys2Proof.Machine

variable {base : Word} {form : BitVec 9 → Instr} {effect : Addr → State → State → Prop} (op : Addr → State → Result)

/-- An absolute form, which an `imm` extends, does what its operation does with the word target. -/
theorem absoluteForm_of_op (henc : ∀ c, Encodes (base ||| c.setWidth 16) (form c))
    (hexec : ∀ c s, exec (form c) s = op (s.absWord c) s) (hop : ∀ a s, ∃ t, op a s = .next t ∧ effect a s t)
    (c : BitVec 9) :
    Encodes (base ||| c.setWidth 16) (form c) ∧
      ∀ s, ∃ t, exec (form c) s = .next t ∧ effect (BitVec.ofNat 24 (s.wordTarget c)) s t := by
  refine ⟨henc c, fun s => ?_⟩
  rw [hexec, absWord_eq_ofNat_wordTarget]
  exact hop _ s

/-- A relative form, with no `imm` in the way, does what its operation does with the relative target, which the
settings given make `target`. -/
theorem relativeForm_of_op {runs : State → Prop} {target : State → BitVec 9 → Addr}
    (htarget : ∀ s c, runs s → s.relTarget c = target s c) (henc : ∀ c, Encodes (base ||| c.setWidth 16) (form c))
    (hexec : ∀ c s, exec (form c) s = unprefixed s fun u => op (u.relTarget c) u)
    (hop : ∀ a s, ∃ t, op a s.dropLatch = .next t ∧ effect a s t) (c : BitVec 9) :
    Encodes (base ||| c.setWidth 16) (form c) ∧
      ∀ s, s.prefixFree → runs s → ∃ t, exec (form c) s = .next t ∧ effect (target s c) s t := by
  refine ⟨henc c, fun s hfree hruns => ?_⟩
  rw [hexec, unprefixed_free _ hfree, ← htarget s c hruns]
  exact hop (s.relTarget c) s

/-- The ten relative forms, under any settings that make the relative target `target`. -/
theorem relativeForms_of_target {runs : State → Prop} {target : State → BitVec 9 → Addr}
    (htarget : ∀ s c, runs s → s.relTarget c = target s c) : RelativeForms runs target :=
  ⟨relativeForm_of_op (jumpIf .always) htarget (encodes_targetField 53 0b1000011#7 rfl rfl fun _ => rfl)
      (fun _ _ => rfl) fun a s => jumpIf_jumps .always a s.dropLatch,
    relativeForm_of_op (jumpIf .nz) htarget (encodes_targetField 54 0b1000001#7 rfl rfl fun _ => rfl)
      (fun _ _ => rfl) fun a s => jumpIf_jumps .nz a s.dropLatch,
    relativeForm_of_op (jumpIf .z) htarget (encodes_targetField 55 0b1001001#7 rfl rfl fun _ => rfl)
      (fun _ _ => rfl) fun a s => jumpIf_jumps .z a s.dropLatch,
    relativeForm_of_op (jumpIf .nc) htarget (encodes_targetField 56 0b1000101#7 rfl rfl fun _ => rfl)
      (fun _ _ => rfl) fun a s => jumpIf_jumps .nc a s.dropLatch,
    relativeForm_of_op (jumpIf .c) htarget (encodes_targetField 57 0b1001101#7 rfl rfl fun _ => rfl)
      (fun _ _ => rfl) fun a s => jumpIf_jumps .c a s.dropLatch,
    relativeForm_of_op (callIf .always) htarget (encodes_targetField 63 0b1010011#7 rfl rfl fun _ => rfl)
      (fun _ _ => rfl) fun a s => callIf_calls .always a s.dropLatch,
    relativeForm_of_op (callIf .nz) htarget (encodes_targetField 64 0b1010001#7 rfl rfl fun _ => rfl)
      (fun _ _ => rfl) fun a s => callIf_calls .nz a s.dropLatch,
    relativeForm_of_op (callIf .z) htarget (encodes_targetField 65 0b1011001#7 rfl rfl fun _ => rfl)
      (fun _ _ => rfl) fun a s => callIf_calls .z a s.dropLatch,
    relativeForm_of_op (callIf .nc) htarget (encodes_targetField 66 0b1010101#7 rfl rfl fun _ => rfl)
      (fun _ _ => rfl) fun a s => callIf_calls .nc a s.dropLatch,
    relativeForm_of_op (callIf .c) htarget (encodes_targetField 67 0b1011101#7 rfl rfl fun _ => rfl)
      (fun _ _ => rfl) fun a s => callIf_calls .c a s.dropLatch⟩

end Sys2Proof.Machine
end

section
/-! PROOFS. The statements about class FC (spec/44_flow_control.md): each form is a row of the opcode map that hands its
target to `jumpIf` or `callIf`, or, for `ret`, the address in `LR` to `pc`. -/

namespace Sys2Proof.Machine

/-- Settles O40: the five forms are `jumpIf` of their suffix, to the word target. -/
theorem absoluteJumps : Obligations.AbsoluteJumps :=
  ⟨absoluteForm_of_op (jumpIf .always) (encodes_targetField 48 0b1000010#7 rfl rfl fun _ => rfl)
      (fun _ _ => rfl) (jumpIf_jumps .always),
    absoluteForm_of_op (jumpIf .nz) (encodes_targetField 49 0b1000000#7 rfl rfl fun _ => rfl)
      (fun _ _ => rfl) (jumpIf_jumps .nz),
    absoluteForm_of_op (jumpIf .z) (encodes_targetField 50 0b1001000#7 rfl rfl fun _ => rfl)
      (fun _ _ => rfl) (jumpIf_jumps .z),
    absoluteForm_of_op (jumpIf .nc) (encodes_targetField 51 0b1000100#7 rfl rfl fun _ => rfl)
      (fun _ _ => rfl) (jumpIf_jumps .nc),
    absoluteForm_of_op (jumpIf .c) (encodes_targetField 52 0b1001100#7 rfl rfl fun _ => rfl)
      (fun _ _ => rfl) (jumpIf_jumps .c)⟩

/-- The ten relative forms at the defaults of `REL_UNIT` and `REL_BASE`; spec/44_flow_control.md R222. -/
theorem relativeForms_of_countsWords : RelativeForms State.countsWords State.wordsAway :=
  relativeForms_of_target fun s c ⟨hunit, _⟩ => relTarget_eq_wordsAway s c hunit

/-- Settles O41: the jumps among the relative forms, whose target is that many words away. -/
theorem relativeJumps : Obligations.RelativeJumps :=
  have ⟨halways, hnz, hz, hnc, hc, _⟩ := relativeForms_of_countsWords
  ⟨halways, hnz, hz, hnc, hc⟩

/-- Settles O42: the five forms are `callIf` of their suffix, to the word target. -/
theorem absoluteCalls : Obligations.AbsoluteCalls :=
  ⟨absoluteForm_of_op (callIf .always) (encodes_targetField 58 0b1010010#7 rfl rfl fun _ => rfl)
      (fun _ _ => rfl) (callIf_calls .always),
    absoluteForm_of_op (callIf .nz) (encodes_targetField 59 0b1010000#7 rfl rfl fun _ => rfl)
      (fun _ _ => rfl) (callIf_calls .nz),
    absoluteForm_of_op (callIf .z) (encodes_targetField 60 0b1011000#7 rfl rfl fun _ => rfl)
      (fun _ _ => rfl) (callIf_calls .z),
    absoluteForm_of_op (callIf .nc) (encodes_targetField 61 0b1010100#7 rfl rfl fun _ => rfl)
      (fun _ _ => rfl) (callIf_calls .nc),
    absoluteForm_of_op (callIf .c) (encodes_targetField 62 0b1011100#7 rfl rfl fun _ => rfl)
      (fun _ _ => rfl) (callIf_calls .c)⟩

/-- Settles O43: the calls among the relative forms. -/
theorem relativeCalls : Obligations.RelativeCalls :=
  have ⟨_, _, _, _, _, hcalls⟩ := relativeForms_of_countsWords
  hcalls

/-- Settles O46: `ret` writes `pc` with the address in `LR`, whatever the mode. -/
theorem returnFromCall : Obligations.ReturnFromCall := by
  refine ⟨encodes_of_row 69 rfl rfl rfl rfl, fun s hfree => ?_⟩
  have hexec : exec .ret s = unprefixed s fun u => .next (u.setPc (linkAddr u.lr)) := rfl
  rw [hexec, unprefixed_free _ hfree, ← linkAddr_eq_ofNat]
  exact ⟨_, rfl, setPc_dropLatch_goesTo (linkAddr s.lr) s⟩

end Sys2Proof.Machine
end

section
/-! PROOFS. The words of the loads and stores: from the row of the opcode map and the pattern of the encoder to
`Encodes` (spec/45_io_memory.md R260, R262). -/

namespace Sys2Proof.Machine

/-- `r0` and `r1` are the registers a single bit names; spec/30_encoding.md R105. -/
theorem isLowReg_iff (x : RegNum) : isLowReg x = true ↔ (x.setWidth 1).setWidth 4 = x := by
  revert x
  decide

/-- The word of an absolute word form over a base, as the concatenation the encoder writes. -/
theorem wordFormWord_append (high : BitVec 6) (x : BitVec 1) (c : BitVec 9) :
    wordFormWord (high ++ 0#1 ++ 0#9) (x.setWidth 4) c = high ++ x ++ c := by
  unfold wordFormWord
  ext i hi
  simp only [BitVec.getElem_or, BitVec.getElem_append, BitVec.getElem_shiftLeft, BitVec.getElem_setWidth]
  grind

/-- Row `n` of the map, if it fixes the high six bits and reads a register bit and a word address below them, names the
words the encoder writes for `r0` and `r1`. -/
theorem encodes_absWordFields (n : Nat) (high : BitVec 6) {base : Word} {form : RegNum → BitVec 9 → Instr}
    (hrow : opcodeMap[n]? =
      some ⟨0xFC00#16, base, fun w => form ((w.extractLsb' 9 1).setWidth 4) (w.extractLsb' 0 9)⟩)
    (hbase : base = high ++ 0#1 ++ 0#9) (henc : ∀ x c, encode (form x c) = high ++ x.setWidth 1 ++ c) {x : RegNum}
    (c : BitVec 9) (hlow : isLowReg x = true) : Encodes (wordFormWord base x c) (form x c) := by
  have hx : (x.setWidth 1).setWidth 4 = x := (isLowReg_iff x).1 hlow
  have hword : wordFormWord base x c = high ++ x.setWidth 1 ++ c := by
    rw [hbase, ← wordFormWord_append high (x.setWidth 1), hx]
  have hmask : (high ++ x.setWidth 1 ++ c) &&& (BitVec.allOnes 6 ++ 0#1 ++ 0#9) = high ++ 0#1 ++ 0#9 := by
    simp only [BitVec.and_append, BitVec.and_zero, BitVec.and_allOnes]
  have hreg : ((high ++ x.setWidth 1 ++ c).extractLsb' 9 1).setWidth 4 = x := by
    rw [extractLsb'_middle_field, hx]
  rw [hword]
  exact encodes_of_row n hrow (hmask.trans hbase.symm) (congrArg₂ form hreg BitVec.extractLsb'_append_eq_right)
    (henc x c)

/-- The word of an indexed form over a base, as the concatenation the encoder writes. -/
theorem indexedFormWord_append (high : BitVec 6) (x : RegNum) (y : BitVec 2) (b : BitVec 4) :
    indexedFormWord (high ++ 0#4 ++ 0#2 ++ 0#4) x y b = high ++ x ++ y ++ b := by
  unfold indexedFormWord
  ext i hi
  simp only [BitVec.getElem_or, BitVec.getElem_append, BitVec.getElem_shiftLeft, BitVec.getElem_setWidth]
  grind

/-- The second field of four, of whatever widths. -/
theorem extractLsb'_second_field {l m n k : Nat} (high : BitVec l) (x : BitVec m) (y : BitVec n) (b : BitVec k) :
    (high ++ x ++ y ++ b).extractLsb' (n + k) m = x := by
  rw [BitVec.extractLsb'_append_eq_of_le (Nat.le_add_left k n), Nat.add_sub_cancel, extractLsb'_middle_field]

/-- Row `n` of the map, if it fixes the high six bits and reads the three fields below them, names the words the encoder
writes for them. -/
theorem encodes_indexedFields (n : Nat) (high : BitVec 6) {base : Word}
    {form : RegNum → BitVec 2 → BitVec 4 → Instr}
    (hrow : opcodeMap[n]? =
      some ⟨0xFC00#16, base, fun w => form (w.extractLsb' 6 4) (w.extractLsb' 4 2) (w.extractLsb' 0 4)⟩)
    (hbase : base = high ++ 0#4 ++ 0#2 ++ 0#4) (henc : ∀ x y b, encode (form x y b) = high ++ x ++ y ++ b)
    (x : RegNum) (y : BitVec 2) (b : BitVec 4) : Encodes (indexedFormWord base x y b) (form x y b) := by
  have hword : indexedFormWord base x y b = high ++ x ++ y ++ b := by rw [hbase, indexedFormWord_append]
  have hmask : (high ++ x ++ y ++ b) &&& (BitVec.allOnes 6 ++ 0#4 ++ 0#2 ++ 0#4) = high ++ 0#4 ++ 0#2 ++ 0#4 := by
    simp only [BitVec.and_append, BitVec.and_zero, BitVec.and_allOnes]
  have hx : (high ++ x ++ y ++ b).extractLsb' 6 4 = x := extractLsb'_second_field high x y b
  have hy : (high ++ x ++ y ++ b).extractLsb' 4 2 = y := extractLsb'_middle_field (high ++ x) y b
  have hb : (high ++ x ++ y ++ b).extractLsb' 0 4 = b := BitVec.extractLsb'_append_eq_right
  have hbuild : form ((high ++ x ++ y ++ b).extractLsb' 6 4) ((high ++ x ++ y ++ b).extractLsb' 4 2)
      ((high ++ x ++ y ++ b).extractLsb' 0 4) = form x y b := by rw [hx, hy, hb]
  rw [hword]
  exact encodes_of_row n hrow (hmask.trans hbase.symm) hbuild (henc x y b)

end Sys2Proof.Machine
end

section
/-! PROOFS. The word accesses of class IO: the indexed address, its alignment, and what a read of memory gives
(spec/45_io_memory.md R262, spec/20_memory.md R72, R74). -/

namespace Sys2Proof.Machine

variable (s : State) (y : BitVec 2) (b : BitVec 4)

/-- The indexed word address as a number; spec/45_io_memory.md R262. -/
theorem indexedWord_eq_ofNat : s.indexedWord y b = BitVec.ofNat 24 ((s.index y).toNat + 2 * b.toNat) := by
  apply BitVec.eq_of_toNat_eq
  simp only [State.indexedWord, BitVec.toNat_setWidth, BitVec.toNat_add, BitVec.toNat_mul, BitVec.toNat_ofNat]
  omega

/-- An offset in words leaves the parity of the index register. -/
theorem indexedWord_odd_iff : (s.indexedWord y b).getLsbD 0 = true ↔ (s.index y).toNat % 2 = 1 := by
  rw [indexedWord_eq_ofNat, BitVec.getLsbD, BitVec.toNat_ofNat, Nat.testBit_zero, decide_eq_true_iff]
  omega

/-- The alignment check lets an even index register through; spec/20_memory.md R74. -/
theorem aligned_indexedWord_of_even (k : State → Result) (heven : (s.index y).toNat % 2 = 0) :
    aligned (s.indexedWord y b) s k = k s :=
  if_neg fun hodd => by
    have := (indexedWord_odd_iff s y b).1 hodd
    omega

/-- It traps on an odd one, with the address in `EAR`; spec/60_exceptions.md R303. -/
theorem aligned_indexedWord_of_odd (k : State → Result) (hodd : (s.index y).toNat % 2 = 1) :
    aligned (s.indexedWord y b) s k = raise (.unaligned (s.indexedWord y b)) s :=
  if_pos ((indexedWord_odd_iff s y b).2 hodd)

/-- The word at an address, as the statements write it; spec/20_memory.md R72. -/
theorem wordAt_eq_wordFrom (a : Addr) : s.wordAt a = s.wordFrom a := by
  unfold State.wordAt State.wordFrom
  cases s.cfg.endian <;> rfl

variable {s}

/-- A 16-bit read where the platform has memory; spec/20_memory.md R80. -/
theorem loadWord_of_isMemory {k : AccessKind} {a : Addr} (hmem : s.isMemory k a) :
    s.loadWord k a = .ok (s.wordFrom a, s) := by
  rw [State.loadWord, hmem, wordAt_eq_wordFrom]

/-- A word load from memory, and nothing else changed; spec/45_io_memory.md R263. -/
theorem ldwFrom_loads (x : RegNum) {ea : Addr} (hmem : s.isMemory .readWord ea) :
    ∃ t, ldwFrom x ea s = .next t ∧ LoadsReg x (s.wordFrom ea) s t := by
  rw [ldwFrom, loadWord_of_isMemory hmem]
  exact loadWith_loads x (s.wordFrom ea) s

end Sys2Proof.Machine
end

section
/-! PROOFS. The statement about the word loads (spec/45_io_memory.md R263, R264): each form is a row of the
opcode map that hands its address to `ldwFrom`. -/

namespace Sys2Proof.Machine

/-- Settles O50: both forms are `ldwFrom` of their address, the indexed one behind the alignment check. -/
theorem wordLoads : Obligations.WordLoads := by
  refine ⟨fun x c hlow => ⟨encodes_absWordFields 72 0b110000#6 rfl rfl (fun _ _ => rfl) c hlow, ?absolute⟩,
    fun x y b => ⟨encodes_indexedFields 73 0b110001#6 rfl rfl (fun _ _ _ => rfl) x y b, ?indexed⟩⟩
  case absolute =>
    rintro s ea rfl hmem
    have hexec : exec (.ldwAbs x c) s = ldwFrom x (s.absWord c) s := rfl
    rw [hexec, absWord_eq_ofNat_wordTarget]
    exact ldwFrom_loads x hmem
  case indexed =>
    rintro s ea hfree rfl
    have hexec : exec (.ldwIdx x y b) s =
      unprefixed s fun u => aligned (u.indexedWord y b) u fun u => ldwFrom x (u.indexedWord y b) u := rfl
    rw [hexec, unprefixed_free _ hfree, ← indexedWord_eq_ofNat]
    split
    next heven =>
      intro hmem
      rw [aligned_indexedWord_of_even s.dropLatch y b _ heven]
      exact ldwFrom_loads (s := s.dropLatch) x hmem
    next hodd =>
      intro htrap
      rw [aligned_indexedWord_of_odd s.dropLatch y b _ (Nat.mod_two_ne_zero.1 hodd),
        raise_of_canTrap _ (s := s.dropLatch) htrap]
      exact ⟨_, rfl, enterException_enters (.unaligned (s.indexedWord y b)) s.dropLatch⟩

end Sys2Proof.Machine
end

section
/-! PROOFS. The index register steps of class IO: the words of the forms, the amount added modulo 2^32, and the frame of
a write of an index register (spec/46_io_spr_mmu.md R285 to R288). -/

namespace Sys2Proof.Machine

/-- Row `n` of the map, if it fixes the high fourteen bits and reads the index field below them, names the words the
encoder writes for it. -/
theorem encodes_indexField (n : Nat) (high : BitVec 14) {base : Word} {form : BitVec 2 → Instr}
    (hrow : opcodeMap[n]? = some ⟨0xFFFC#16, base, fun w => form (w.extractLsb' 0 2)⟩)
    (hbase : base = high ++ 0#2) (henc : ∀ y, encode (form y) = high ++ y) (y : BitVec 2) :
    Encodes (base ||| y.setWidth 16) (form y) := by
  have hfield : y.setWidth 16 = 0#14 ++ y := BitVec.setWidth_eq_append (by decide)
  have hword : base ||| y.setWidth 16 = high ++ y := by
    rw [hbase, hfield, BitVec.or_append, BitVec.or_zero, BitVec.zero_or]
  have hmask : (high ++ y) &&& (BitVec.allOnes 14 ++ 0#2) = high ++ 0#2 := by
    rw [BitVec.and_append, BitVec.and_zero, BitVec.and_allOnes]
  rw [hword]
  exact encodes_of_row n hrow (hmask.trans hbase.symm) (congrArg form BitVec.extractLsb'_append_eq_right) (henc y)

/-- A signed amount added to the number a word holds is, modulo `2 ^ n`, that amount added to the word. -/
theorem ofInt_toNat_add {n : Nat} (v : BitVec n) (step : Int) :
    BitVec.ofInt n (v.toNat + step) = v + BitVec.ofInt n step := by
  rw [BitVec.ofInt_add, BitVec.ofInt_natCast, BitVec.ofNat_toNat, BitVec.setWidth_eq]

/-- `IDy` written, and nothing else changed but `pc` and the latch. -/
theorem complete_setIndex_writes (y : BitVec 2) (v : Long) (s : State) :
    ∃ t, complete (s.setIndex y v) = .next t ∧ WritesIndex y v s t :=
  ⟨_, complete_eq _, index_setIndex_same s y v, fun _ hw => index_setIndex_ne s v hw, fun _ => rfl, ⟨rfl, rfl⟩,
    ⟨fun _ => rfl, rfl⟩, ⟨rfl, ⟨rfl, rfl, rfl⟩, rfl, rfl, rfl⟩, fun _ => rfl, ⟨rfl, fun _ => rfl⟩,
    ⟨rfl, rfl, rfl, rfl, rfl, rfl, rfl, rfl⟩, ⟨rfl, rfl, rfl⟩, rfl, rfl⟩

/-- A form that, with no `imm` in the way, replaces `IDy` by `op` of it steps it by the amount `op` adds. -/
theorem indexStep_of_op {base : Word} {form : BitVec 2 → Instr} {step : Int} (op : Long → Long)
    (henc : ∀ y, Encodes (base ||| y.setWidth 16) (form y))
    (hexec : ∀ y s, exec (form y) s = unprefixed s fun u => complete (u.setIndex y (op (u.index y))))
    (hop : ∀ v, op v = v + BitVec.ofInt 32 step) : IndexStep base form step := by
  refine fun y => ⟨henc y, fun s hfree => ?_⟩
  rw [hexec, unprefixed_free _ hfree, ofInt_toNat_add, ← hop]
  exact complete_setIndex_writes y (op (s.index y)) s.dropLatch

end Sys2Proof.Machine
end

section
/-! PROOFS. The statement about the index register steps whose amounts the spec gives (spec/46_io_spr_mmu.md R285 to
R287): each form is a row of the opcode map that completes with its index register stepped. -/

namespace Sys2Proof.Machine

/-- Settles O58: the three forms replace `IDy` by a sum or difference of 32-bit words; to subtract 1 is to add -1. -/
theorem indexSteps : Obligations.IndexSteps :=
  ⟨indexStep_of_op (· + 1#32) (encodes_indexField 75 0b11001000001000#14 rfl rfl fun _ => rfl)
      (fun _ _ => rfl) fun _ => rfl,
    indexStep_of_op (· + 2#32) (encodes_indexField 76 0b11001000011000#14 rfl rfl fun _ => rfl)
      (fun _ _ => rfl) fun _ => rfl,
    indexStep_of_op (· - 1#32) (encodes_indexField 77 0b11001000001100#14 rfl rfl fun _ => rfl)
      (fun _ _ => rfl) fun v => BitVec.sub_eq_add_neg v 1#32⟩

end Sys2Proof.Machine
end

section
/-! PROOFS. The layouts of an instruction word: the words that match a pattern under a mask of the opcode map are the
concatenations of the pattern's fixed fields with the operands (spec/30_encoding.md R102 to R105). -/

namespace Sys2Proof.Machine

/-- A word is its two parts. -/
theorem extractLsb'_append_self {m n : Nat} (w : BitVec (m + n)) : w.extractLsb' n m ++ w.extractLsb' 0 n = w := by
  rw [BitVec.extractLsb'_append_extractLsb'_eq_extractLsb' (Nat.zero_add n).symm, BitVec.extractLsb'_eq_self]

/-- A field of a field. -/
theorem extractLsb'_extractLsb'_add {k m n l s : Nat} (w : BitVec k) (h : s + m ≤ l) :
    (w.extractLsb' n l).extractLsb' s m = w.extractLsb' (n + s) m := by
  ext i hi
  rw [BitVec.getElem_extractLsb', BitVec.getElem_extractLsb', BitVec.getLsbD_extractLsb', Nat.add_assoc,
    decide_eq_true (by omega : s + i < l), Bool.true_and]

/-- Words put together from equal widths are equal part by part. -/
theorem append_eq_append_iff {m n : Nat} {a c : BitVec m} {b d : BitVec n} : a ++ b = c ++ d ↔ a = c ∧ b = d := by
  refine ⟨fun h => ⟨?_, ?_⟩, fun ⟨hac, hbd⟩ => by rw [hac, hbd]⟩
  · rw [← BitVec.extractLsb'_append_eq_left (a := a) (b := b), h, BitVec.extractLsb'_append_eq_left]
  · rw [← BitVec.extractLsb'_append_eq_right (a := a) (b := b), h, BitVec.extractLsb'_append_eq_right]

/-- A word compared with a concatenation, part by part. -/
theorem eq_append_iff_parts {m n : Nat} (w : BitVec (m + n)) (a : BitVec m) (b : BitVec n) :
    w = a ++ b ↔ w.extractLsb' n m = a ∧ w.extractLsb' 0 n = b := by
  rw [← append_eq_append_iff, extractLsb'_append_self]

/-- A word matched against a pattern under a mask, part by part. -/
theorem and_append_eq_iff_parts {m n : Nat} (w : BitVec (m + n)) (a c : BitVec m) (b d : BitVec n) :
    w &&& (a ++ b) = c ++ d ↔ w.extractLsb' n m &&& a = c ∧ w.extractLsb' 0 n &&& b = d := by
  rw [← append_eq_append_iff, ← BitVec.and_append, extractLsb'_append_self]

section
variable {k l m n : Nat} (high : BitVec k)

/-- A fixed field over one operand. -/
theorem eq_fixed_operand_iff (w : BitVec (k + l)) (x : BitVec l) :
    w = high ++ x ↔ w &&& (BitVec.allOnes k ++ 0#l) = high ++ 0#l ∧ w.extractLsb' 0 l = x := by
  rw [eq_append_iff_parts, and_append_eq_iff_parts, BitVec.and_allOnes, BitVec.and_zero]
  tauto

/-- A fixed field over two operands. -/
theorem eq_fixed_operand_operand_iff (w : BitVec (k + l + m)) (x : BitVec l) (y : BitVec m) :
    w = high ++ x ++ y ↔
      w &&& (BitVec.allOnes k ++ 0#l ++ 0#m) = high ++ 0#l ++ 0#m ∧ w.extractLsb' m l = x ∧ w.extractLsb' 0 m = y := by
  rw [eq_append_iff_parts, and_append_eq_iff_parts, eq_fixed_operand_iff, extractLsb'_extractLsb'_add w (by omega),
    BitVec.and_zero]
  tauto

/-- A fixed field over three operands. -/
theorem eq_fixed_operand_operand_operand_iff (w : BitVec (k + l + m + n)) (x : BitVec l) (y : BitVec m)
    (z : BitVec n) :
    w = high ++ x ++ y ++ z ↔
      w &&& (BitVec.allOnes k ++ 0#l ++ 0#m ++ 0#n) = high ++ 0#l ++ 0#m ++ 0#n ∧ w.extractLsb' (n + m) l = x ∧
        w.extractLsb' n m = y ∧ w.extractLsb' 0 n = z := by
  rw [eq_append_iff_parts, and_append_eq_iff_parts, eq_fixed_operand_operand_iff,
    extractLsb'_extractLsb'_add w (by omega), extractLsb'_extractLsb'_add w (by omega), BitVec.and_zero]
  tauto

/-- An operand between two fixed fields. -/
theorem eq_fixed_operand_fixed_iff (w : BitVec (k + l + m)) (x : BitVec l) (low : BitVec m) :
    w = high ++ x ++ low ↔
      w &&& (BitVec.allOnes k ++ 0#l ++ BitVec.allOnes m) = high ++ 0#l ++ low ∧ w.extractLsb' m l = x := by
  rw [eq_append_iff_parts, and_append_eq_iff_parts, eq_fixed_operand_iff, extractLsb'_extractLsb'_add w (by omega),
    BitVec.and_allOnes]
  tauto

/-- Two operands over a fixed field each. -/
theorem eq_fixed_operand_fixed_operand_iff (w : BitVec (k + l + m + n)) (x : BitVec l) (middle : BitVec m)
    (y : BitVec n) :
    w = high ++ x ++ middle ++ y ↔
      w &&& (BitVec.allOnes k ++ 0#l ++ BitVec.allOnes m ++ 0#n) = high ++ 0#l ++ middle ++ 0#n ∧
        w.extractLsb' (n + m) l = x ∧ w.extractLsb' 0 n = y := by
  rw [eq_append_iff_parts, and_append_eq_iff_parts, eq_fixed_operand_fixed_iff,
    extractLsb'_extractLsb'_add w (by omega), BitVec.and_zero]
  tauto

end

end Sys2Proof.Machine
end

section
/-! PROOFS. Decoding inverts encoding (spec/30_encoding.md section 4): for each layout, the row of the opcode map that a
word of an instruction matches is found on the word with every operand 0. -/

namespace Sys2Proof.Machine

/-- The row that takes the word of one instruction decodes the word of another, if it takes that word and builds that
instruction from it. -/
theorem decode_encode_of_find {i₀ i : Instr} {r : Row}
    (hrow : opcodeMap.find? (fun r => r.accepts (encode i₀)) = some r) (haccepts : encode i &&& r.mask = r.pattern)
    (hbuild : r.build (encode i) = i) : decodeWord (encode i) = .ok i :=
  (decodeWord_of_row (List.mem_of_find?_eq_some hrow) (beq_iff_eq.2 haccepts)).trans (congrArg Except.ok hbuild)

theorem decode_encode_imm (a : BitVec 14) : decodeWord (encode (.imm a)) = .ok (.imm a) := by
  obtain ⟨hmask, ha⟩ := (eq_fixed_operand_iff 0#2 (encode (.imm a)) a).1 rfl
  exact decode_encode_of_find (i₀ := .imm 0#14) rfl hmask (congrArg Instr.imm ha)

theorem decode_encode_twoFields {high : BitVec 8} {form : BitVec 4 → BitVec 4 → Instr}
    (hrow : opcodeMap.find? (fun r => r.accepts (encode (form 0#4 0#4))) =
      some ⟨0xFF00#16, high ++ 0#4 ++ 0#4, fun w => form (w.extractLsb' 4 4) (w.extractLsb' 0 4)⟩)
    (henc : ∀ x b, encode (form x b) = high ++ x ++ b) (x b : BitVec 4) :
    decodeWord (encode (form x b)) = .ok (form x b) := by
  obtain ⟨hmask, hx, hb⟩ := (eq_fixed_operand_operand_iff high _ x b).1 (henc x b)
  exact decode_encode_of_find hrow hmask (congrArg₂ form hx hb)

theorem decode_encode_oneField {high : BitVec 8} {low : BitVec 4} {form : BitVec 4 → Instr}
    (hrow : opcodeMap.find? (fun r => r.accepts (encode (form 0#4))) =
      some ⟨0xFF0F#16, high ++ 0#4 ++ low, fun w => form (w.extractLsb' 4 4)⟩)
    (henc : ∀ x, encode (form x) = high ++ x ++ low) (x : BitVec 4) :
    decodeWord (encode (form x)) = .ok (form x) := by
  obtain ⟨hmask, hx⟩ := (eq_fixed_operand_fixed_iff high _ x low).1 (henc x)
  exact decode_encode_of_find hrow hmask (congrArg form hx)

theorem decode_encode_twoFpFields {high : BitVec 12} {form : BitVec 2 → BitVec 2 → Instr}
    (hrow : opcodeMap.find? (fun r => r.accepts (encode (form 0#2 0#2))) =
      some ⟨0xFFF0#16, high ++ 0#2 ++ 0#2, fun w => form (w.extractLsb' 2 2) (w.extractLsb' 0 2)⟩)
    (henc : ∀ u v, encode (form u v) = high ++ u ++ v) (u v : BitVec 2) :
    decodeWord (encode (form u v)) = .ok (form u v) := by
  obtain ⟨hmask, hu, hv⟩ := (eq_fixed_operand_operand_iff high _ u v).1 (henc u v)
  exact decode_encode_of_find hrow hmask (congrArg₂ form hu hv)

theorem decode_encode_oneFpField {high : BitVec 12} {form : BitVec 2 → Instr}
    (hrow : opcodeMap.find? (fun r => r.accepts (encode (form 0#2))) =
      some ⟨0xFFF3#16, high ++ 0#2 ++ 0#2, fun w => form (w.extractLsb' 2 2)⟩)
    (henc : ∀ u, encode (form u) = high ++ u ++ 0#2) (u : BitVec 2) :
    decodeWord (encode (form u)) = .ok (form u) := by
  obtain ⟨hmask, hu⟩ := (eq_fixed_operand_fixed_iff high _ u 0#2).1 (henc u)
  exact decode_encode_of_find hrow hmask (congrArg form hu)

theorem decode_encode_targetField {high : BitVec 7} {form : BitVec 9 → Instr}
    (hrow : opcodeMap.find? (fun r => r.accepts (encode (form 0#9))) =
      some ⟨0xFE00#16, high ++ 0#9, fun w => form (w.extractLsb' 0 9)⟩)
    (henc : ∀ c, encode (form c) = high ++ c) (c : BitVec 9) : decodeWord (encode (form c)) = .ok (form c) := by
  obtain ⟨hmask, hc⟩ := (eq_fixed_operand_iff high _ c).1 (henc c)
  exact decode_encode_of_find hrow hmask (congrArg form hc)

theorem decode_encode_indexField {high : BitVec 14} {form : BitVec 2 → Instr}
    (hrow : opcodeMap.find? (fun r => r.accepts (encode (form 0#2))) =
      some ⟨0xFFFC#16, high ++ 0#2, fun w => form (w.extractLsb' 0 2)⟩)
    (henc : ∀ y, encode (form y) = high ++ y) (y : BitVec 2) : decodeWord (encode (form y)) = .ok (form y) := by
  obtain ⟨hmask, hy⟩ := (eq_fixed_operand_iff high _ y).1 (henc y)
  exact decode_encode_of_find hrow hmask (congrArg form hy)

theorem decode_encode_absWordFields {high : BitVec 6} {form : RegNum → BitVec 9 → Instr}
    (hrow : opcodeMap.find? (fun r => r.accepts (encode (form 0#4 0#9))) =
      some ⟨0xFC00#16, high ++ 0#1 ++ 0#9, fun w => form ((w.extractLsb' 9 1).setWidth 4) (w.extractLsb' 0 9)⟩)
    (henc : ∀ x c, encode (form x c) = high ++ x.setWidth 1 ++ c) {x : RegNum} (c : BitVec 9)
    (hlow : isLowReg x = true) : decodeWord (encode (form x c)) = .ok (form x c) := by
  obtain ⟨hmask, hx, hc⟩ := (eq_fixed_operand_operand_iff high _ (x.setWidth 1) c).1 (henc x c)
  have hreg : ((encode (form x c)).extractLsb' 9 1).setWidth 4 = x :=
    (congrArg (BitVec.setWidth 4) hx).trans ((isLowReg_iff x).1 hlow)
  exact decode_encode_of_find hrow hmask (congrArg₂ form hreg hc)

theorem decode_encode_absByteFields {high : BitVec 5} {form : RegNum → BitVec 10 → Instr}
    (hrow : opcodeMap.find? (fun r => r.accepts (encode (form 0#4 0#10))) =
      some ⟨0xF800#16, high ++ 0#1 ++ 0#10, fun w => form ((w.extractLsb' 10 1).setWidth 4) (w.extractLsb' 0 10)⟩)
    (henc : ∀ x e, encode (form x e) = high ++ x.setWidth 1 ++ e) {x : RegNum} (e : BitVec 10)
    (hlow : isLowReg x = true) : decodeWord (encode (form x e)) = .ok (form x e) := by
  obtain ⟨hmask, hx, he⟩ := (eq_fixed_operand_operand_iff high _ (x.setWidth 1) e).1 (henc x e)
  have hreg : ((encode (form x e)).extractLsb' 10 1).setWidth 4 = x :=
    (congrArg (BitVec.setWidth 4) hx).trans ((isLowReg_iff x).1 hlow)
  exact decode_encode_of_find hrow hmask (congrArg₂ form hreg he)

theorem decode_encode_indexedFields {high : BitVec 6} {form : RegNum → BitVec 2 → BitVec 4 → Instr}
    (hrow : opcodeMap.find? (fun r => r.accepts (encode (form 0#4 0#2 0#4))) =
      some ⟨0xFC00#16, high ++ 0#4 ++ 0#2 ++ 0#4,
        fun w => form (w.extractLsb' 6 4) (w.extractLsb' 4 2) (w.extractLsb' 0 4)⟩)
    (henc : ∀ x y b, encode (form x y b) = high ++ x ++ y ++ b) (x : RegNum) (y : BitVec 2) (b : BitVec 4) :
    decodeWord (encode (form x y b)) = .ok (form x y b) := by
  obtain ⟨hmask, hx, hy, hb⟩ := (eq_fixed_operand_operand_operand_iff high _ x y b).1 (henc x y b)
  exact decode_encode_of_find hrow hmask ((congrArg₂ (fun x y => form x y _) hx hy).trans (congrArg (form x y) hb))

theorem decode_encode_sprFields {high : BitVec 6} {form : BitVec 3 → BitVec 4 → Instr}
    (hrow : opcodeMap.find? (fun r => r.accepts (encode (form 0#3 0#4))) =
      some ⟨0xFC70#16, high ++ 0#3 ++ 0#3 ++ 0#4, fun w => form (w.extractLsb' 7 3) (w.extractLsb' 0 4)⟩)
    (henc : ∀ x y, encode (form x y) = high ++ x ++ 0#3 ++ y) (x : BitVec 3) (y : BitVec 4) :
    decodeWord (encode (form x y)) = .ok (form x y) := by
  obtain ⟨hmask, hx, hy⟩ := (eq_fixed_operand_fixed_operand_iff high _ x 0#3 y).1 (henc x y)
  exact decode_encode_of_find hrow hmask (congrArg₂ form hx hy)

theorem decode_encode_ldtlb (x : BitVec 3) (d : BitVec 5) : decodeWord (encode (.ldtlb x d)) = .ok (.ldtlb x d) := by
  obtain ⟨hmask, hx, hd⟩ := (eq_fixed_operand_operand_iff 0b11001110#8 (encode (.ldtlb x d)) x d).1 rfl
  exact decode_encode_of_find (i₀ := .ldtlb 0#3 0#5) rfl hmask (congrArg₂ Instr.ldtlb hx hd)

/-- Settles O1, by the layout of each instruction's word. -/
theorem decodeInvertsEncode : Obligations.DecodeInvertsEncode := by
  intro i hwf
  cases i with
  | imm a => exact decode_encode_imm a
  | addRR x b | addRI x b | adcRR x b | adcRI x b | subRR x b | subRI x b | sbbRR x b | sbbRI x b | andRR x b | andRI x b
  | orRR x b | orRI x b | xorRR x b | xorRI x b | cmpRR x b | cmpRI x b | testRR x b | testRI x b | loadRR x b
  | loadRI x b | mulRR x b | mulRI x b | mulsRR x b | mulsRI x b | divRR x b | divRI x b | divsRR x b | divsRI x b
  | bsl x b | bsr x b => exact decode_encode_twoFields rfl (fun _ _ => rfl) x b
  | sla x | slx x | sl0 x | sl1 x | rl x | sra x | srx x | sr0 x | sr1 x | rr x | ldpid x =>
    exact decode_encode_oneField rfl (fun _ => rfl) x
  | fmul u v | fdiv u v | fadd u v | fsub u v | fcmp u v => exact decode_encode_twoFpFields rfl (fun _ _ => rfl) u v
  | fint u | fflt u => exact decode_encode_oneFpField rfl (fun _ => rfl) u
  | jump c | jumpNz c | jumpZ c | jumpNc c | jumpC c | jumpRel c | jumpRelNz c | jumpRelZ c | jumpRelNc c | jumpRelC c
  | call c | callNz c | callZ c | callNc c | callC c | callRel c | callRelNz c | callRelZ c | callRelNc c
  | callRelC c => exact decode_encode_targetField rfl (fun _ => rfl) c
  | svc | ret | reti | rete => rfl
  | ldwAbs x c | stwAbs x c => exact decode_encode_absWordFields rfl (fun _ _ => rfl) c hwf
  | ldbAbs x e | stbAbs x e => exact decode_encode_absByteFields rfl (fun _ _ => rfl) e hwf
  | ldwIdx x y b | stwIdx x y b | ldbIdx x y b | stbIdx x y b =>
    exact decode_encode_indexedFields rfl (fun _ _ _ => rfl) x y b
  | ldspr x y | stspr x y => exact decode_encode_sprFields rfl (fun _ _ => rfl) x y
  | incpr y | wincpr y | decpr y | wdecpr y => exact decode_encode_indexField rfl (fun _ => rfl) y
  | ldtlb x d => exact decode_encode_ldtlb x d

end Sys2Proof.Machine
end

section
/-! PROOFS. Decoding is strict (spec/30_encoding.md section 5): each row of the opcode map builds a well-formed
instruction whose word is the word it was built from. -/

namespace Sys2Proof

/-- A row that drops no bit of a word it takes. -/
def Row.Strict (r : Row) : Prop := ∀ w, w &&& r.mask = r.pattern → (r.build w).wf = true ∧ encode (r.build w) = w

/-- The rows of a list are strict if the first one is and the others are. -/
theorem forall_mem_cons_strict {r : Row} {l : List Row} (hr : r.Strict) (hl : ∀ q ∈ l, q.Strict) :
    ∀ q ∈ r :: l, q.Strict := List.forall_mem_cons.2 ⟨hr, hl⟩

end Sys2Proof

namespace Sys2Proof.Machine

/-- One bit names `r0` or `r1`. -/
theorem isLowReg_setWidth (b : BitVec 1) : isLowReg (b.setWidth 4) = true := by
  revert b
  decide

theorem setWidth_one_setWidth_four (b : BitVec 1) : (b.setWidth 4).setWidth 1 = b := by
  revert b
  decide

theorem strict_imm : Row.Strict ⟨0xC000#16, 0x0000#16, fun w => .imm (w.extractLsb' 0 14)⟩ := by
  intro w hw
  exact ⟨rfl, ((eq_fixed_operand_iff (k := 2) (l := 14) 0#2 w _).2 ⟨hw, rfl⟩).symm⟩

section
variable {base : Word}

theorem strict_twoFields {high : BitVec 8} {form : BitVec 4 → BitVec 4 → Instr}
    (hwf : ∀ x b, (form x b).wf = true) (henc : ∀ x b, encode (form x b) = high ++ x ++ b)
    (hbase : base = high ++ 0#4 ++ 0#4) :
    Row.Strict ⟨0xFF00#16, base, fun w => form (w.extractLsb' 4 4) (w.extractLsb' 0 4)⟩ := by
  intro w hw
  have hword := (eq_fixed_operand_operand_iff (k := 8) (l := 4) (m := 4) high w _ _).2 ⟨hw.trans hbase, rfl, rfl⟩
  exact ⟨hwf _ _, (henc _ _).trans hword.symm⟩

theorem strict_oneField {high : BitVec 8} {low : BitVec 4} {form : BitVec 4 → Instr} (hwf : ∀ x, (form x).wf = true)
    (henc : ∀ x, encode (form x) = high ++ x ++ low) (hbase : base = high ++ 0#4 ++ low) :
    Row.Strict ⟨0xFF0F#16, base, fun w => form (w.extractLsb' 4 4)⟩ := by
  intro w hw
  have hword := (eq_fixed_operand_fixed_iff (k := 8) (l := 4) (m := 4) high w _ low).2 ⟨hw.trans hbase, rfl⟩
  exact ⟨hwf _, (henc _).trans hword.symm⟩

theorem strict_twoFpFields {high : BitVec 12} {form : BitVec 2 → BitVec 2 → Instr}
    (hwf : ∀ u v, (form u v).wf = true) (henc : ∀ u v, encode (form u v) = high ++ u ++ v)
    (hbase : base = high ++ 0#2 ++ 0#2) :
    Row.Strict ⟨0xFFF0#16, base, fun w => form (w.extractLsb' 2 2) (w.extractLsb' 0 2)⟩ := by
  intro w hw
  have hword := (eq_fixed_operand_operand_iff (k := 12) (l := 2) (m := 2) high w _ _).2 ⟨hw.trans hbase, rfl, rfl⟩
  exact ⟨hwf _ _, (henc _ _).trans hword.symm⟩

theorem strict_oneFpField {high : BitVec 12} {form : BitVec 2 → Instr} (hwf : ∀ u, (form u).wf = true)
    (henc : ∀ u, encode (form u) = high ++ u ++ 0#2) (hbase : base = high ++ 0#2 ++ 0#2) :
    Row.Strict ⟨0xFFF3#16, base, fun w => form (w.extractLsb' 2 2)⟩ := by
  intro w hw
  have hword := (eq_fixed_operand_fixed_iff (k := 12) (l := 2) (m := 2) high w _ 0#2).2 ⟨hw.trans hbase, rfl⟩
  exact ⟨hwf _, (henc _).trans hword.symm⟩

theorem strict_targetField {high : BitVec 7} {form : BitVec 9 → Instr} (hwf : ∀ c, (form c).wf = true)
    (henc : ∀ c, encode (form c) = high ++ c) (hbase : base = high ++ 0#9) :
    Row.Strict ⟨0xFE00#16, base, fun w => form (w.extractLsb' 0 9)⟩ := by
  intro w hw
  have hword := (eq_fixed_operand_iff (k := 7) (l := 9) high w _).2 ⟨hw.trans hbase, rfl⟩
  exact ⟨hwf _, (henc _).trans hword.symm⟩

theorem strict_indexField {high : BitVec 14} {form : BitVec 2 → Instr} (hwf : ∀ y, (form y).wf = true)
    (henc : ∀ y, encode (form y) = high ++ y) (hbase : base = high ++ 0#2) :
    Row.Strict ⟨0xFFFC#16, base, fun w => form (w.extractLsb' 0 2)⟩ := by
  intro w hw
  have hword := (eq_fixed_operand_iff (k := 14) (l := 2) high w _).2 ⟨hw.trans hbase, rfl⟩
  exact ⟨hwf _, (henc _).trans hword.symm⟩

theorem strict_noField {i : Instr} (hwf : i.wf = true) (henc : encode i = base) :
    Row.Strict ⟨0xFFFF#16, base, fun _ => i⟩ := by
  intro w hw
  have hmask : w &&& BitVec.allOnes 16 = base := hw
  exact ⟨hwf, henc.trans (hmask.symm.trans BitVec.and_allOnes)⟩

theorem strict_absWordFields {high : BitVec 6} {form : RegNum → BitVec 9 → Instr}
    (hwf : ∀ x c, (form x c).wf = isLowReg x) (henc : ∀ x c, encode (form x c) = high ++ x.setWidth 1 ++ c)
    (hbase : base = high ++ 0#1 ++ 0#9) :
    Row.Strict ⟨0xFC00#16, base, fun w => form ((w.extractLsb' 9 1).setWidth 4) (w.extractLsb' 0 9)⟩ := by
  intro w hw
  have hword := (eq_fixed_operand_operand_iff (k := 6) (l := 1) (m := 9) high w _ _).2 ⟨hw.trans hbase, rfl, rfl⟩
  refine ⟨(hwf _ _).trans (isLowReg_setWidth _), (henc _ _).trans ?_⟩
  rw [setWidth_one_setWidth_four]
  exact hword.symm

theorem strict_absByteFields {high : BitVec 5} {form : RegNum → BitVec 10 → Instr}
    (hwf : ∀ x e, (form x e).wf = isLowReg x) (henc : ∀ x e, encode (form x e) = high ++ x.setWidth 1 ++ e)
    (hbase : base = high ++ 0#1 ++ 0#10) :
    Row.Strict ⟨0xF800#16, base, fun w => form ((w.extractLsb' 10 1).setWidth 4) (w.extractLsb' 0 10)⟩ := by
  intro w hw
  have hword := (eq_fixed_operand_operand_iff (k := 5) (l := 1) (m := 10) high w _ _).2 ⟨hw.trans hbase, rfl, rfl⟩
  refine ⟨(hwf _ _).trans (isLowReg_setWidth _), (henc _ _).trans ?_⟩
  rw [setWidth_one_setWidth_four]
  exact hword.symm

theorem strict_indexedFields {high : BitVec 6} {form : RegNum → BitVec 2 → BitVec 4 → Instr}
    (hwf : ∀ x y b, (form x y b).wf = true) (henc : ∀ x y b, encode (form x y b) = high ++ x ++ y ++ b)
    (hbase : base = high ++ 0#4 ++ 0#2 ++ 0#4) :
    Row.Strict ⟨0xFC00#16, base, fun w => form (w.extractLsb' 6 4) (w.extractLsb' 4 2) (w.extractLsb' 0 4)⟩ := by
  intro w hw
  have hword := (eq_fixed_operand_operand_operand_iff (k := 6) (l := 4) (m := 2) (n := 4) high w _ _ _).2
    ⟨hw.trans hbase, rfl, rfl, rfl⟩
  exact ⟨hwf _ _ _, (henc _ _ _).trans hword.symm⟩

theorem strict_sprFields {high : BitVec 6} {form : BitVec 3 → BitVec 4 → Instr} (hwf : ∀ x y, (form x y).wf = true)
    (henc : ∀ x y, encode (form x y) = high ++ x ++ 0#3 ++ y) (hbase : base = high ++ 0#3 ++ 0#3 ++ 0#4) :
    Row.Strict ⟨0xFC70#16, base, fun w => form (w.extractLsb' 7 3) (w.extractLsb' 0 4)⟩ := by
  intro w hw
  have hword := (eq_fixed_operand_fixed_operand_iff (k := 6) (l := 3) (m := 3) (n := 4) high w _ 0#3 _).2
    ⟨hw.trans hbase, rfl, rfl⟩
  exact ⟨hwf _ _, (henc _ _).trans hword.symm⟩

end

theorem strict_ldtlb : Row.Strict ⟨0xFF00#16, 0xCE00#16, fun w => .ldtlb (w.extractLsb' 5 3) (w.extractLsb' 0 5)⟩ := by
  intro w hw
  exact ⟨rfl, ((eq_fixed_operand_operand_iff (k := 8) (l := 3) (m := 5) 0xCE#8 w _ _).2 ⟨hw, rfl, rfl⟩).symm⟩

theorem rowsArith_strict : ∀ r ∈ rowsArith, r.Strict := by
  iterate 14 refine forall_mem_cons_strict (strict_twoFields (fun _ _ => rfl) (fun _ _ => rfl) rfl) ?_
  exact List.forall_mem_nil _

theorem rowsShift_strict : ∀ r ∈ rowsShift, r.Strict := by
  iterate 10 refine forall_mem_cons_strict (strict_oneField (fun _ => rfl) (fun _ => rfl) rfl) ?_
  exact List.forall_mem_nil _

theorem rowsCompare_strict : ∀ r ∈ rowsCompare, r.Strict := by
  iterate 14 refine forall_mem_cons_strict (strict_twoFields (fun _ _ => rfl) (fun _ _ => rfl) rfl) ?_
  exact List.forall_mem_nil _

theorem rowsBarrel_strict : ∀ r ∈ rowsBarrel, r.Strict := by
  iterate 2 refine forall_mem_cons_strict (strict_twoFields (fun _ _ => rfl) (fun _ _ => rfl) rfl) ?_
  exact List.forall_mem_nil _

theorem rowsFloat_strict : ∀ r ∈ rowsFloat, r.Strict := by
  iterate 5 refine forall_mem_cons_strict (strict_twoFpFields (fun _ _ => rfl) (fun _ _ => rfl) rfl) ?_
  iterate 2 refine forall_mem_cons_strict (strict_oneFpField (fun _ => rfl) (fun _ => rfl) rfl) ?_
  exact List.forall_mem_nil _

theorem rowsJump_strict : ∀ r ∈ rowsJump, r.Strict := by
  iterate 10 refine forall_mem_cons_strict (strict_targetField (fun _ => rfl) (fun _ => rfl) rfl) ?_
  exact List.forall_mem_nil _

theorem rowsCall_strict : ∀ r ∈ rowsCall, r.Strict := by
  iterate 10 refine forall_mem_cons_strict (strict_targetField (fun _ => rfl) (fun _ => rfl) rfl) ?_
  exact List.forall_mem_nil _

theorem rowsSystem_strict : ∀ r ∈ rowsSystem, r.Strict := by
  iterate 4 refine forall_mem_cons_strict (strict_noField rfl rfl) ?_
  exact List.forall_mem_nil _

theorem rowsIo_strict : ∀ r ∈ rowsIo, r.Strict := by
  refine forall_mem_cons_strict (strict_absWordFields (fun _ _ => rfl) (fun _ _ => rfl) rfl) ?_
  refine forall_mem_cons_strict (strict_indexedFields (fun _ _ _ => rfl) (fun _ _ _ => rfl) rfl) ?_
  refine forall_mem_cons_strict (strict_sprFields (fun _ _ => rfl) (fun _ _ => rfl) rfl) ?_
  iterate 4 refine forall_mem_cons_strict (strict_indexField (fun _ => rfl) (fun _ => rfl) rfl) ?_
  refine forall_mem_cons_strict (strict_oneField (fun _ => rfl) (fun _ => rfl) rfl) ?_
  refine forall_mem_cons_strict strict_ldtlb ?_
  refine forall_mem_cons_strict (strict_absWordFields (fun _ _ => rfl) (fun _ _ => rfl) rfl) ?_
  refine forall_mem_cons_strict (strict_indexedFields (fun _ _ _ => rfl) (fun _ _ _ => rfl) rfl) ?_
  refine forall_mem_cons_strict (strict_sprFields (fun _ _ => rfl) (fun _ _ => rfl) rfl) ?_
  iterate 2
    refine forall_mem_cons_strict (strict_absByteFields (fun _ _ => rfl) (fun _ _ => rfl) rfl) ?_
    refine forall_mem_cons_strict (strict_indexedFields (fun _ _ _ => rfl) (fun _ _ _ => rfl) rfl) ?_
  exact List.forall_mem_nil _

theorem opcodeMap_strict : ∀ r ∈ opcodeMap, r.Strict := by
  have hprefix : ∀ r ∈ rowsPrefix, r.Strict := forall_mem_cons_strict strict_imm (List.forall_mem_nil _)
  simp only [opcodeMap, List.forall_mem_append]
  exact ⟨⟨⟨⟨⟨⟨⟨⟨⟨hprefix, rowsArith_strict⟩, rowsShift_strict⟩, rowsCompare_strict⟩, rowsBarrel_strict⟩,
    rowsFloat_strict⟩, rowsJump_strict⟩, rowsCall_strict⟩, rowsSystem_strict⟩, rowsIo_strict⟩

/-- Settles O2: a word that decodes is taken by a row, and every row is strict. -/
theorem decodingIsStrict : Obligations.DecodingIsStrict := by
  rintro w i h
  obtain ⟨r, hr, haccepts, rfl⟩ := row_of_decodeWord h
  exact opcodeMap_strict r hr w (beq_iff_eq.1 haccepts)

end Sys2Proof.Machine
end

section
/-! PROOFS. The words the decoder refuses (spec/30_encoding.md R125): what the rows that the high byte of a word matches
ask of its low byte, and the table of illegal words read in the same way. -/

namespace Sys2Proof.Machine

/-! ### The rows, by the high byte -/

/-- What the rows of the opcode map that the high byte of a word matches ask of its low byte: a mask and a pattern
each. -/
def lowRules (high : Byte) : List (Byte × Byte) :=
  (opcodeMap.filter fun r => high &&& r.mask.extractLsb' 8 8 == r.pattern.extractLsb' 8 8).map
    fun r => (r.mask.extractLsb' 0 8, r.pattern.extractLsb' 0 8)

/-- A row takes a word if it takes both bytes. -/
theorem accepts_append (r : Row) (high low : Byte) :
    r.accepts (high ++ low) = true ↔
      high &&& r.mask.extractLsb' 8 8 = r.pattern.extractLsb' 8 8 ∧
        low &&& r.mask.extractLsb' 0 8 = r.pattern.extractLsb' 0 8 := by
  have hmask := extractLsb'_append_self (m := 8) (n := 8) r.mask
  have hpattern := extractLsb'_append_self (m := 8) (n := 8) r.pattern
  rw [Row.accepts, beq_iff_eq, ← append_eq_append_iff, ← BitVec.and_append, hmask, hpattern]

theorem decode_error_iff_lowRules (high low : Byte) :
    (∃ e, decodeWord (high ++ low) = .error e) ↔ ∀ q ∈ lowRules high, low &&& q.1 ≠ q.2 := by
  rw [decodeWord_error_iff]
  simp only [lowRules, List.forall_mem_map, List.mem_filter, beq_iff_eq, and_imp]
  refine forall₂_congr fun r _ => ?_
  rw [← Bool.not_eq_true, accepts_append, not_and]

/-- The same list, by the fields of the high byte; spec/30_encoding.md R125. -/
def lowRulesByField (high : Byte) : List (Byte × Byte) :=
  let op := (high.extractLsb' 2 3).toNat
  match (high.extractLsb' 6 2).toNat with
  | 0 => [(0x00#8, 0x00#8)]
  | 1 =>
    match (high.extractLsb' 0 2).toNat with
    | 0 =>
      if op = 7 then [(0x0F#8, 0x00#8), (0x0F#8, 0x01#8), (0x0F#8, 0x02#8), (0x0F#8, 0x03#8), (0x0F#8, 0x04#8)]
      else [(0x00#8, 0x00#8)]
    | 2 => if op = 6 then [] else [(0x00#8, 0x00#8)]
    | 1 => if op = 0 then [(0x00#8, 0x00#8)] else []
    | _ =>
      match (high.extractLsb' 2 4).toNat with
      | 0 | 8 | 4 | 12 | 2 => [(0xF0#8, 0x00#8)]
      | 10 | 6 => [(0xF3#8, 0x00#8)]
      | _ => []
  | 2 =>
    match op with
    | 3 | 5 => []
    | 7 =>
      if !high.getLsbD 1 || high.getLsbD 0 then []
      else if high.getLsbD 5 then [(0xFF#8, 0x00#8), (0xFF#8, 0x01#8), (0xFF#8, 0x02#8)]
      else [(0xFF#8, 0x00#8)]
    | _ => [(0x00#8, 0x00#8)]
  | _ =>
    match (high.extractLsb' 2 4).toNat with
    | 2 =>
      if (high.extractLsb' 0 2).toNat = 0 then
        [(0x70#8, 0x00#8), (0xFC#8, 0x20#8), (0xFC#8, 0x60#8), (0xFC#8, 0x30#8), (0xFC#8, 0x70#8)]
      else [(0x70#8, 0x00#8)]
    | 3 => if high.getLsbD 0 then [] else if high.getLsbD 1 then [(0x00#8, 0x00#8)] else [(0x0F#8, 0x00#8)]
    | 6 => [(0x70#8, 0x00#8)]
    | 7 | 11 | 15 => []
    | _ => [(0x00#8, 0x00#8)]

/-- There are 256 high bytes. -/
theorem lowRules_eq_byField : ∀ high, lowRules high = lowRulesByField high := by
  decide +kernel

/-! ### The fields of a word, by the bytes they lie in -/

section
variable (high low : Byte)

theorem extractLsb'_high_append {m : Nat} (s : Nat) : (high ++ low).extractLsb' (8 + s) m = high.extractLsb' s m := by
  rw [BitVec.extractLsb'_append_eq_of_le (Nat.le_add_right 8 s), Nat.add_sub_cancel_left]

theorem extractLsb'_low_append {s m : Nat} (h : s + m ≤ 8) : (high ++ low).extractLsb' s m = low.extractLsb' s m := by
  rw [BitVec.extractLsb'_append_eq_of_add_le h]

theorem getLsbD_high_append (s : Nat) : (high ++ low).getLsbD (8 + s) = high.getLsbD s := by
  rw [BitVec.getLsbD_append, if_neg (by omega), Nat.add_sub_cancel_left]

theorem toNat_getLsbD_zero {n : Nat} (w : BitVec n) : (w.getLsbD 0).toNat = w.toNat % 2 := by
  rw [BitVec.getLsbD, Nat.toNat_testBit, Nat.pow_zero, Nat.div_one]

/-- The nine bits of a target. -/
theorem extractLsb'_target_append :
    ((high ++ low).extractLsb' 0 9).toNat = 256 * (high.getLsbD 0).toNat + low.toNat := by
  rw [BitVec.extractLsb'_toNat, BitVec.toNat_append, ← Nat.shiftLeft_add_eq_or_of_lt low.isLt, toNat_getLsbD_zero,
    Nat.shiftLeft_eq, Nat.shiftRight_zero]
  have := low.isLt
  omega

/-- The three bits of a pair number. -/
theorem extractLsb'_pair_append :
    ((high ++ low).extractLsb' 7 3).toNat = 2 * (high.extractLsb' 0 2).toNat + (low.extractLsb' 7 1).toNat := by
  rw [BitVec.extractLsb'_toNat, BitVec.extractLsb'_toNat, BitVec.extractLsb'_toNat, BitVec.toNat_append,
    ← Nat.shiftLeft_add_eq_or_of_lt low.isLt]
  simp only [Nat.shiftLeft_eq, Nat.shiftRight_eq_div_pow]
  have := low.isLt
  omega

end

/-! ### The table, by the high byte -/

/-- The table lists a word exactly when its low byte meets no rule of its high byte: by the class of the word, then by
the field its column of the table reads. What is left to compare each time are conditions on the low byte. -/
theorem listedIllegal_append (high low : Byte) :
    listedIllegal (high ++ low) = (lowRulesByField high).all fun q => low &&& q.1 != q.2 := by
  have hclass : (high ++ low).extractLsb' 14 2 = high.extractLsb' 6 2 := extractLsb'_high_append high low 6
  have hhigh : (high ++ low).extractLsb' 10 4 = high.extractLsb' 2 4 := extractLsb'_high_append high low 2
  have hop : (high ++ low).extractLsb' 10 3 = high.extractLsb' 2 3 := extractLsb'_high_append high low 2
  have hgroup : (high ++ low).extractLsb' 8 2 = high.extractLsb' 0 2 := extractLsb'_high_append high low 0
  have hbit8 : (high ++ low).getLsbD 8 = high.getLsbD 0 := getLsbD_high_append high low 0
  have hbit9 : (high ++ low).getLsbD 9 = high.getLsbD 1 := getLsbD_high_append high low 1
  have hbit13 : (high ++ low).getLsbD 13 = high.getLsbD 5 := getLsbD_high_append high low 5
  have hlow : (high ++ low).extractLsb' 0 4 = low.extractLsb' 0 4 := extractLsb'_low_append high low (by decide)
  have hmiddle : (high ++ low).extractLsb' 4 3 = low.extractLsb' 4 3 := extractLsb'_low_append high low (by decide)
  have hx : (high ++ low).extractLsb' 4 4 = low.extractLsb' 4 4 := extractLsb'_low_append high low (by decide)
  have hv : (high ++ low).extractLsb' 0 2 = low.extractLsb' 0 2 := extractLsb'_low_append high low (by decide)
  have hy : (high ++ low).extractLsb' 2 2 = low.extractLsb' 2 2 := extractLsb'_low_append high low (by decide)
  unfold listedIllegal lowRulesByField
  simp only [hclass, hhigh, hop, hgroup, hbit8, hbit9, hbit13, hlow, hmiddle, hx, hv, hy, extractLsb'_target_append,
    extractLsb'_pair_append]
  clear hclass hhigh hop hgroup hbit8 hbit9 hbit13 hlow hmiddle hx hv hy
  have hcls := (high.extractLsb' 6 2).isLt
  generalize (high.extractLsb' 6 2).toNat = cls at hcls ⊢
  obtain rfl | rfl | rfl | rfl : cls = 0 ∨ cls = 1 ∨ cls = 2 ∨ cls = 3 := by omega
  · simp
  · have hgroup := (high.extractLsb' 0 2).isLt
    generalize (high.extractLsb' 0 2).toNat = group, (high.extractLsb' 2 3).toNat = op at hgroup ⊢
    obtain rfl | rfl | rfl | rfl : group = 0 ∨ group = 1 ∨ group = 2 ∨ group = 3 := by omega
    · by_cases hop : op = 7
      · simp only [hop, if_true]
        revert low
        decide
      · simp [hop]
    · by_cases hop : op = 0 <;> simp [hop]
    · by_cases hop : op = 6 <;> simp [hop]
    · have hnibble := (high.extractLsb' 2 4).isLt
      generalize (high.extractLsb' 2 4).toNat = nibble at hnibble ⊢
      simp only
      revert low
      interval_cases nibble <;> decide
  · simp only
    have hop := (high.extractLsb' 2 3).isLt
    generalize (high.extractLsb' 2 3).toNat = op, high.getLsbD 0 = bit8, high.getLsbD 1 = bit9,
      high.getLsbD 5 = bit13 at hop ⊢
    obtain hfree | rfl : op < 7 ∨ op = 7 := by omega
    · interval_cases op <;> simp
    · simp only
      revert low bit8 bit9 bit13
      decide +kernel
  · simp only
    have hnibble := (high.extractLsb' 2 4).isLt
    have hgroup := (high.extractLsb' 0 2).isLt
    generalize (high.extractLsb' 2 4).toNat = nibble, (high.extractLsb' 0 2).toNat = group, high.getLsbD 0 = bit8,
      high.getLsbD 1 = bit9 at hnibble hgroup ⊢
    obtain hbelow | rfl | rfl | hbetween | rfl | habove :
        nibble < 2 ∨ nibble = 2 ∨ nibble = 3 ∨ (3 < nibble ∧ nibble < 6) ∨ nibble = 6 ∨ 6 < nibble := by omega
    · interval_cases nibble <;> simp
    · simp only
      revert low
      interval_cases group <;> decide
    · simp only
      revert low
      cases bit8 <;> cases bit9 <;> decide
    · obtain ⟨hlower, hupper⟩ := hbetween
      interval_cases nibble <;> simp
    · simp only
      revert low
      decide
    · interval_cases nibble <;> simp

/-- Settles O3: the rules the rows leave for the low byte are those of the table. -/
theorem illegalWordsAreTheListed : Obligations.IllegalWordsAreTheListed := by
  intro w
  rw [← extractLsb'_append_self (m := 8) (n := 8) w, decode_error_iff_lowRules, listedIllegal_append,
    lowRules_eq_byField]
  simp only [List.all_eq_true, bne_iff_ne, ne_eq]

end Sys2Proof.Machine
end

section
/-! PROOFS. What a step can do, said once: it takes an interrupt, runs the instruction it fetched, or traps on an illegal
word (spec/60_exceptions.md R300). -/

namespace Sys2Proof.Machine

/-- The ways a step from `s` can answer a next state. -/
inductive StepEffect (s : State) : State → Prop
  | interrupted : s.interruptDue = true → StepEffect s s.popIrq.enterInterrupt
  | ran {w : Word} {u t : State} {i : Instr} : s.popIrq.fetch = .ok (w, u) → decodeWord w = .ok i → Effect i u t →
      StepEffect s t
  | illegal {w : Word} {u : State} : s.popIrq.fetch = .ok (w, u) → u.msr.eip = false →
      StepEffect s (u.enterException .illegalOpcode)

variable {s t : State}

theorem step_effect (h : step s = .next t) : StepEffect s t := by
  obtain ⟨_, _, ⟨hdue, rfl⟩ | ⟨_, w, u, hfetch, hrun⟩⟩ := cycle_next h
  · exact .interrupted hdue
  · obtain ⟨i, hi, hexec⟩ | ⟨_, hraise⟩ := hrun
    · exact .ran hfetch hi (exec_effect i hexec)
    · obtain ⟨_, heip, rfl⟩ := raise_next hraise
      exact .illegal hfetch heip

/-- A fetch changes nothing but the record of device accesses. -/
theorem fetch_frame {w : Word} {u : State} (h : s.fetch = .ok (w, u)) :
    ∃ log, u = { s with deviceLog := log } := by
  obtain ⟨_, _, hload⟩ := fetch_ok h
  obtain ⟨_, _, rfl⟩ | ⟨_, _, rfl⟩ := loadWord_ok hload
  · exact ⟨u.deviceLog, rfl⟩
  · exact ⟨_, rfl⟩

/-- The state the instruction of a step runs on. -/
theorem fetch_popIrq_frame {w : Word} {u : State} (h : s.popIrq.fetch = .ok (w, u)) :
    ∃ log, u = { s with irq := s.irq.tail, deviceLog := log } := fetch_frame h

theorem writeSpr_keeps_memory (r : Spr) (v : Long) (s : State) :
    (s.writeSpr r v).mem = s.mem ∧ (s.writeSpr r v).stored = s.stored := by
  cases r <;> exact ⟨rfl, rfl⟩

/-- The exception code and `EIP` are read-only; spec/10_state.md R32. -/
theorem writeSpr_keeps_code (r : Spr) (v : Long) (s : State) :
    (s.writeSpr r v).msr.ec = s.msr.ec ∧ (s.writeSpr r v).msr.eip = s.msr.eip := by
  cases r <;> exact ⟨rfl, rfl⟩

/-- And so are the flags; spec/10_state.md R32. -/
theorem writeSpr_keeps_flags (r : Spr) (v : Long) (s : State) : KeepsFlags s (s.writeSpr r v) := by
  cases r <;> exact ⟨rfl, rfl⟩

/-- The SPRs user mode may name are none of the MSR, the control and the trap registers. -/
theorem writeSpr_open_frame {r : Spr} (hr : r.kernelOnly = false) (v : Long) (s : State) :
    (s.writeSpr r v).msr = s.msr ∧ KeepsTrapRegs s (s.writeSpr r v) ∧ KeepsControlRegs s (s.writeSpr r v) ∧
      KeepsMmu s (s.writeSpr r v) := by
  cases r with
  | msr | ilr | elr | cc | vbar | ear | ctx => cases hr
  | lr | index | fp => exact ⟨rfl, ⟨rfl, rfl, rfl⟩, ⟨rfl, rfl, rfl⟩, rfl, fun _ => rfl⟩

end Sys2Proof.Machine
end

section
/-! PROOFS. The invariant of the machine's states is kept by every step (spec/10_state.md R25, R33, spec/20_memory.md
R70, R91). -/

namespace Sys2Proof.Machine

variable {s t : State}

/-- The invariant speaks of `pc`, the exception code, memory and the marks only. -/
theorem State.Inv.of_frame (h : s.Inv) (hpc : EvenAddr t.pc) (hec : t.msr.ec = s.msr.ec) (hmem : t.mem = s.mem)
    (hstored : t.stored = s.stored) : t.Inv where
  pcEven := hpc
  codeLegal := hec ▸ h.codeLegal
  memoryCanonical := hmem ▸ h.memoryCanonical
  marksRising := hstored ▸ h.marksRising
  marksInMemory := hstored ▸ h.marksInMemory

/-- Marking an address keeps the marks in their canonical form. -/
theorem State.Inv.mark (h : s.Inv) (a : Addr) (log : List DeviceAccess) :
    State.Inv { s with stored := markAddr s.stored a.toNat, deviceLog := log } where
  pcEven := h.pcEven
  codeLegal := h.codeLegal
  memoryCanonical := h.memoryCanonical
  marksRising := markAddr_rising _ h.marksRising
  marksInMemory := by
    intro n hn
    obtain rfl | hn := mem_markAddr.1 hn
    · exact a.isLt
    · exact h.marksInMemory n hn

/-- A byte store keeps the canonical forms. -/
theorem State.Inv.putByte (h : s.Inv) (a : Addr) (v : Byte) : (s.putByte a v).Inv :=
  { h.mark a s.deviceLog with memoryCanonical := Memory.wf_write v h.memoryCanonical a.isLt }

theorem State.Inv.putWord (h : s.Inv) (a : Addr) (v : Word) : (s.putWord a v).Inv :=
  (h.putByte a _).putByte _ _

theorem State.Inv.sendByte (h : s.Inv) (a : Addr) (v : Byte) : (s.sendByte a v).Inv := h.mark a _

theorem State.Inv.sendWord (h : s.Inv) (a : Addr) (v : Word) : (s.sendWord a v).Inv :=
  (h.mark a s.deviceLog).mark (a + 1#24) _

/-- Completing an instruction keeps the invariant. -/
theorem State.Inv.advance (h : s.Inv) : (s.dropLatch.setPc s.npc).Inv :=
  h.of_frame (npc_even h.pcEven) rfl rfl rfl

/-- The vectors are at even addresses. -/
theorem vectorBase_add_even (s : State) {offset : Addr} (h : offset.toNat % 2 = 0) :
    EvenAddr (s.vectorBase + offset) := by
  have hbase : s.vectorBase.toNat % 2 = 0 := by
    rw [State.vectorBase, BitVec.toNat_append, ← Nat.shiftLeft_add_eq_or_of_lt (0#1).isLt, Nat.shiftLeft_eq]
    simp
  rw [EvenAddr, BitVec.getLsbD, Nat.testBit_zero, BitVec.toNat_add]
  simp
  omega

theorem code_legal (x : Exc) : x.code.toNat ≤ 3 := by
  cases x <;> simp [Exc.code]

/-- Entering an exception keeps the invariant: its code is not reserved. -/
theorem State.Inv.enterException (h : s.Inv) (x : Exc) : (s.enterException x).Inv where
  pcEven := vectorBase_add_even s rfl
  codeLegal := code_legal x
  memoryCanonical := h.memoryCanonical
  marksRising := h.marksRising
  marksInMemory := h.marksInMemory

/-- Every instruction keeps the invariant. -/
theorem State.Inv.effect {i : Instr} (h : s.Inv) (he : Effect i s t) : t.Inv := by
  cases he with
  | trapped x => exact h.enterException x
  | supervisor => exact h.of_frame (vectorBase_add_even s rfl) rfl rfl rfl
  | fromInterrupt | fromException => exact h.of_frame (linkAddr_even _) rfl rfl rfl
  | latched | wrotePid | wroteTlb => exact h.of_frame (npc_even h.pcEven) rfl rfl rfl
  | wroteSpr x y v =>
    obtain ⟨hmem, hstored⟩ := writeSpr_keeps_memory (sprOf y) v s
    obtain ⟨hec, _⟩ := writeSpr_keeps_code (sprOf y) v s
    exact h.of_frame (npc_even h.pcEven) hec hmem hstored
  | storedWord a v => exact (h.putWord a v).advance
  | storedByte a v => exact (h.putByte a v).advance
  | sentWord a v => exact (h.sendWord a v).advance
  | sentByte a v => exact (h.sendByte a v).advance
  | quiet regs ids lr log pc hpc => exact h.of_frame (hpc h.pcEven) rfl rfl rfl
  | computed => exact h.of_frame (npc_even h.pcEven) rfl rfl rfl

/-- A fetch keeps the invariant. -/
theorem State.Inv.fetch {w : Word} {u : State} (h : s.Inv) (hf : s.popIrq.fetch = .ok (w, u)) : u.Inv := by
  obtain ⟨log, rfl⟩ := fetch_popIrq_frame hf
  exact h.of_frame h.pcEven rfl rfl rfl

/-- Settles O9: each of the three ways a step goes on keeps the invariant. -/
theorem stepKeepsInvariant : Obligations.StepKeepsInvariant := by
  intro s t h hstep
  cases step_effect hstep with
  | interrupted => exact h.of_frame (vectorBase_add_even s rfl) rfl rfl rfl
  | ran hf _ he => exact (h.fetch hf).effect he
  | illegal hf => exact (h.fetch hf).enterException _

end Sys2Proof.Machine
end

section
/-! PROOFS. User mode and the trap entries (spec/60_exceptions.md R320, R321): the modes, the system registers, `EIP` and
the exception code change only where a trap is entered or left. -/

namespace Sys2Proof.Machine

variable {s t : State}

/-- What taking `svc` changes, and what it leaves as it was; spec/60_exceptions.md R308. -/
theorem enterSvc_enters (s : State) : EntersKernelAt 12#24 s s.enterSvc :=
  ⟨rfl, rfl, rfl, rfl, rfl, rfl, rfl, fun _ => rfl, ⟨rfl, rfl⟩, ⟨fun _ => rfl, rfl⟩, rfl, ⟨rfl, rfl, rfl⟩,
    fun _ => rfl, fun _ => rfl, ⟨rfl, fun _ => rfl⟩, rfl⟩

/-- What taking an interrupt changes, and what it leaves as it was; no `imm` was pending. spec/60_exceptions.md
R311. -/
theorem enterInterrupt_enters (hlatch : s.immv = false) : EntersKernelAt 4#24 s s.popIrq.enterInterrupt :=
  ⟨rfl, hlatch, rfl, rfl, rfl, rfl, rfl, fun _ => rfl, ⟨rfl, rfl⟩, ⟨fun _ => rfl, rfl⟩, rfl, ⟨rfl, rfl, rfl⟩,
    fun _ => rfl, fun _ => rfl, ⟨rfl, fun _ => rfl⟩, rfl⟩

/-- The conditions of an interrupt; spec/60_exceptions.md R311. -/
theorem interruptDue_iff (s : State) :
    s.interruptDue = true ↔ s.irq.headD false = true ∧ s.msr.i = true ∧ s.msr.eip = false ∧ s.immv = false := by
  simp [State.interruptDue, State.irqNow, and_assoc]

/-- Entering an exception goes to the Exception vector. -/
theorem enterException_entersKernel (x : Exc) (s : State) : EntersKernelAt 8#24 s (s.enterException x) :=
  have ⟨hkernel, _⟩ := enterException_enters x s
  hkernel

/-- In user mode an instruction leaves the modes alone or enters a trap. -/
theorem Effect.user_modes {i : Instr} (h : Effect i s t) (hum : s.msr.um = true) :
    t.msr.um = true ∨ EntersKernelAt 8#24 s t ∨ EntersKernelAt 12#24 s t := by
  cases h with
  | trapped x => exact .inr (.inl (enterException_entersKernel x s))
  | supervisor => exact .inr (.inr (enterSvc_enters s))
  | fromInterrupt _ hkernel | fromException _ hkernel | wrotePid _ _ _ hkernel | wroteTlb _ _ _ _ hkernel =>
    rw [hum] at hkernel
    cases hkernel
  | wroteSpr x y v _ hopen =>
    have hr : (sprOf y).kernelOnly = false := hopen.resolve_left (by simp [hum])
    obtain ⟨hmsr, _⟩ := writeSpr_open_frame hr v s
    exact .inl (hmsr ▸ hum)
  | latched | storedWord | storedByte | sentWord | sentByte | quiet | computed => exact .inl hum

/-- Settles O15: by the ways a step goes on, and by what an instruction can do in user mode. -/
theorem onlyTrapsLeaveUserMode : Obligations.OnlyTrapsLeaveUserMode := by
  intro s t hum hstep
  cases step_effect hstep with
  | interrupted hdue =>
    obtain ⟨_, _, _, hlatch⟩ := (interruptDue_iff s).1 hdue
    exact .inr (.inl (enterInterrupt_enters hlatch))
  | ran hf _ he =>
    obtain ⟨log, rfl⟩ := fetch_popIrq_frame hf
    obtain hstay | hexception | hsvc := he.user_modes hum
    · exact .inl hstay
    · exact .inr (.inr (.inl hexception))
    · exact .inr (.inr (.inr hsvc))
  | illegal hf =>
    obtain ⟨log, rfl⟩ := fetch_popIrq_frame hf
    exact .inr (.inr (.inl (enterException_entersKernel .illegalOpcode _)))

/-- What user mode cannot change: the MSR but its flags, the trap and control registers, the MMU's registers. -/
def KeepsUserView (s t : State) : Prop :=
  KeepsStatus s t ∧ KeepsTrapRegs s t ∧ KeepsControlRegs s t ∧ KeepsMmu s t

/-- An instruction of user mode that stays in it keeps the system. -/
theorem Effect.user_system {i : Instr} (h : Effect i s t) (hum : s.msr.um = true) (hstay : t.msr.um = true) :
    KeepsUserView s t := by
  cases h with
  | trapped | supervisor => cases hstay
  | fromInterrupt _ hkernel | fromException _ hkernel | wrotePid _ _ _ hkernel | wroteTlb _ _ _ _ hkernel =>
    rw [hum] at hkernel
    cases hkernel
  | wroteSpr x y v _ hopen =>
    have hr : (sprOf y).kernelOnly = false := hopen.resolve_left (by simp [hum])
    obtain ⟨hmsr, htrap, hcontrol, hmmu⟩ := writeSpr_open_frame hr v s
    refine ⟨?_, htrap, hcontrol, hmmu⟩
    have hmsr' : (((s.writeSpr (sprOf y) v).dropLatch).setPc s.npc).msr = s.msr := hmsr
    unfold KeepsStatus
    simp only [hmsr', and_self]
  | storedWord a v =>
    rw [putWord_eq]
    exact ⟨⟨rfl, rfl, rfl, rfl, rfl, rfl, rfl, rfl⟩, ⟨rfl, rfl, rfl⟩, ⟨rfl, rfl, rfl⟩, rfl, fun _ => rfl⟩
  | latched | storedByte | sentWord | sentByte | quiet | computed =>
    exact ⟨⟨rfl, rfl, rfl, rfl, rfl, rfl, rfl, rfl⟩, ⟨rfl, rfl, rfl⟩, ⟨rfl, rfl, rfl⟩, rfl, fun _ => rfl⟩

/-- Settles O16: every trap entry leaves user mode, and what is left keeps the system. -/
theorem userModeKeepsTheSystem : Obligations.UserModeKeepsTheSystem := by
  intro s t hum hstay hstep
  cases step_effect hstep with
  | interrupted | illegal => cases hstay
  | ran hf _ he =>
    obtain ⟨log, rfl⟩ := fetch_popIrq_frame hf
    exact he.user_system hum hstay

/-- An exception in progress stays in progress, but for `rete`. -/
theorem Effect.eip_kept {i : Instr} (h : Effect i s t) (heip : s.msr.eip = true) :
    t.msr.eip = true ∨ i = .rete ∧ t = s.leaveException := by
  cases h with
  | trapped | supervisor => exact .inl rfl
  | fromException hi => exact .inr ⟨hi, rfl⟩
  | wroteSpr x y v =>
    obtain ⟨_, hkept⟩ := writeSpr_keeps_code (sprOf y) v s
    exact .inl (hkept.trans heip)
  | fromInterrupt | latched | wrotePid | wroteTlb | storedWord | storedByte | sentWord | sentByte | quiet | computed =>
    exact .inl heip

/-- Settles O17: an interrupt waits for `EIP`, and an instruction that clears it is the one whose word is that of
`rete`. -/
theorem onlyReteEndsException : Obligations.OnlyReteEndsException := by
  intro s t heip hstep
  cases step_effect hstep with
  | interrupted hdue =>
    obtain ⟨_, _, hclear, _⟩ := (interruptDue_iff s).1 hdue
    rw [heip] at hclear
    cases hclear
  | ran hf hi he =>
    obtain ⟨log, rfl⟩ := fetch_popIrq_frame hf
    obtain hstay | ⟨rfl, rfl⟩ := he.eip_kept heip
    · exact .inl hstay
    · obtain ⟨_, rfl⟩ := decodingIsStrict _ _ hi
      refine .inr ⟨?_, _, hf⟩
      have hpc := congrArg BitVec.toNat (linkAddr_eq_ofNat s.elr)
      rw [BitVec.toNat_ofNat, Nat.mod_eq_of_lt (by omega)] at hpc
      exact hpc
  | illegal hf hclear =>
    obtain ⟨log, rfl⟩ := fetch_popIrq_frame hf
    exact .inl rfl

/-- The codes of the exceptions; spec/60_exceptions.md R301 to R303. -/
theorem code_cases (x : Exc) : x.code = 1#4 ∨ x.code = 2#4 ∨ x.code = 3#4 := by
  cases x <;> simp [Exc.code]

/-- The exception code changes only where an exception is entered. -/
theorem Effect.code_kept {i : Instr} (h : Effect i s t) : t.msr.ec = s.msr.ec ∨ ∃ x, t = s.enterException x := by
  cases h with
  | trapped x => exact .inr ⟨x, rfl⟩
  | wroteSpr x y v =>
    obtain ⟨hkept, _⟩ := writeSpr_keeps_code (sprOf y) v s
    exact .inl hkept
  | supervisor | fromInterrupt | fromException | latched | wrotePid | wroteTlb | storedWord | storedByte | sentWord
  | sentByte | quiet | computed => exact .inl rfl

/-- Settles O18: an interrupt keeps the code, and an instruction or an illegal word changes it by an exception only. -/
theorem codeOnlyChangesAtException : Obligations.CodeOnlyChangesAtException := by
  intro s t hstep
  cases step_effect hstep with
  | interrupted => exact .inl rfl
  | ran hf _ he =>
    obtain ⟨log, rfl⟩ := fetch_popIrq_frame hf
    obtain hkept | ⟨x, rfl⟩ := he.code_kept
    · exact .inl hkept
    · exact .inr ⟨enterException_entersKernel x _, rfl, code_cases x⟩
  | illegal hf =>
    obtain ⟨log, rfl⟩ := fetch_popIrq_frame hf
    exact .inr ⟨enterException_entersKernel .illegalOpcode _, rfl, code_cases .illegalOpcode⟩

end Sys2Proof.Machine
end

section
/-! PROOFS. What every instruction and every step leaves alone: memory but by a store, the flags, the latch
(spec/20_memory.md R91, spec/10_state.md R27, R45), read off the shapes of an instruction's next state. -/

namespace Sys2Proof.Machine

variable {s t : State} {i : Instr}

/-- The four stores; spec/45_io_memory.md R265, R266, R269, R270. -/
def IsStore (i : Instr) : Prop :=
  (∃ x c, i = .stwAbs x c) ∨ (∃ x y b, i = .stwIdx x y b) ∨ (∃ x e, i = .stbAbs x e) ∨ ∃ x y b, i = .stbIdx x y b

/-- Every byte that changes is marked, and no mark is lost. -/
def MarksChanges (s t : State) : Prop :=
  (∀ a, t.byteAt a ≠ s.byteAt a → a.toNat ∈ t.stored) ∧ ∀ n ∈ s.stored, n ∈ t.stored

theorem KeepsMemory.marksChanges (h : KeepsMemory s t) : MarksChanges s t := by
  obtain ⟨hbytes, hstored⟩ := h
  exact ⟨fun a ha => absurd (hbytes a) ha, fun n hn => hstored ▸ hn⟩

/-- The marks of a word store; spec/20_memory.md R91. -/
theorem putWord_stored (s : State) (a : Addr) (v : Word) :
    (s.putWord a v).stored = markAddr (markAddr s.stored a.toNat) (a + 1#24).toNat := rfl

theorem putByte_marksChanges (s : State) (a : Addr) (v : Byte) : MarksChanges s (s.putByte a v) := by
  refine ⟨fun b hb => ?_, fun n hn => mem_markAddr.2 (.inr hn)⟩
  have hba : b = a := by
    by_contra hne
    exact hb (byteAt_putByte_ne s v hne)
  exact mem_markAddr.2 (.inl (congrArg BitVec.toNat hba))

theorem putWord_marksChanges (s : State) (a : Addr) (v : Word) : MarksChanges s (s.putWord a v) := by
  refine ⟨fun b hb => ?_, fun n hn => ?_⟩
  · rw [byteAt_putWord] at hb
    rw [putWord_stored, mem_markAddr, mem_markAddr]
    split at hb
    next hnext => exact .inl (congrArg BitVec.toNat hnext)
    next =>
      split at hb
      next hfirst => exact .inr (.inl (congrArg BitVec.toNat hfirst))
      next => exact absurd rfl hb
  · rw [putWord_stored, mem_markAddr, mem_markAddr]
    exact .inr (.inr hn)

theorem sendWord_marksChanges (s : State) (a : Addr) (v : Word) : MarksChanges s (s.sendWord a v) :=
  ⟨fun _ hb => absurd rfl hb, fun _ hn => mem_markAddr.2 (.inr (mem_markAddr.2 (.inr hn)))⟩

theorem sendByte_marksChanges (s : State) (a : Addr) (v : Byte) : MarksChanges s (s.sendByte a v) :=
  ⟨fun _ hb => absurd rfl hb, fun _ hn => mem_markAddr.2 (.inr hn)⟩

/-- A word store's instruction is a store. -/
theorem isStore_of_word (h : (∃ x c, i = .stwAbs x c) ∨ ∃ x y b, i = .stwIdx x y b) : IsStore i :=
  h.elim .inl fun h => .inr (.inl h)

theorem isStore_of_byte (h : (∃ x e, i = .stbAbs x e) ∨ ∃ x y b, i = .stbIdx x y b) : IsStore i := .inr (.inr h)

/-- An instruction keeps memory, or is a store and marks what it changes. -/
theorem Effect.memory (h : Effect i s t) : KeepsMemory s t ∨ IsStore i ∧ MarksChanges s t := by
  cases h with
  | storedWord a v hi => exact .inr ⟨isStore_of_word hi, putWord_marksChanges s a v⟩
  | storedByte a v hi => exact .inr ⟨isStore_of_byte hi, putByte_marksChanges s a v⟩
  | sentWord a v hi => exact .inr ⟨isStore_of_word hi, sendWord_marksChanges s a v⟩
  | sentByte a v hi => exact .inr ⟨isStore_of_byte hi, sendByte_marksChanges s a v⟩
  | wroteSpr x y v =>
    obtain ⟨hmem, hstored⟩ := writeSpr_keeps_memory (sprOf y) v s
    exact .inl ⟨fun a => congrArg (Memory.read · a.toNat) hmem, hstored⟩
  | trapped | supervisor | fromInterrupt | fromException | latched | wrotePid | wroteTlb | quiet | computed =>
    exact .inl ⟨fun _ => rfl, rfl⟩

/-- Settles O14: an instruction that is no store keeps memory. -/
theorem onlyStoresWriteMemory : Obligations.OnlyStoresWriteMemory := by
  intro i s t hexec hstwAbs hstwIdx hstbAbs hstbIdx
  obtain hkept | ⟨hstore, _⟩ := (exec_effect i hexec).memory
  · exact hkept
  · obtain ⟨x, c, rfl⟩ | ⟨x, y, b, rfl⟩ | ⟨x, e, rfl⟩ | ⟨x, y, b, rfl⟩ := hstore
    · exact absurd rfl (hstwAbs x c)
    · exact absurd rfl (hstwIdx x y b)
    · exact absurd rfl (hstbAbs x e)
    · exact absurd rfl (hstbIdx x y b)

/-- Settles O13: traps keep memory, and an instruction marks what it changes. -/
theorem onlyMarkedBytesChange : Obligations.OnlyMarkedBytesChange := by
  intro s t hstep
  cases step_effect hstep with
  | interrupted => exact KeepsMemory.marksChanges ⟨fun _ => rfl, rfl⟩
  | ran hf _ he =>
    obtain ⟨log, rfl⟩ := fetch_popIrq_frame hf
    obtain hkept | ⟨_, hmarks⟩ := he.memory
    · exact hkept.marksChanges
    · exact hmarks
  | illegal hf =>
    obtain ⟨log, rfl⟩ := fetch_popIrq_frame hf
    exact KeepsMemory.marksChanges ⟨fun _ => rfl, rfl⟩

/-- An instruction keeps the flags, or is one that computes them and enters no exception. -/
theorem Effect.flags (h : Effect i s t) : KeepsFlags s t ∨ Computes i ∧ t.msr.eip = s.msr.eip := by
  cases h with
  | computed regs fps draws z c hunit hrr hri => exact .inr ⟨⟨hunit, hrr, hri⟩, rfl⟩
  | wroteSpr x y v => exact .inl (writeSpr_keeps_flags (sprOf y) v s)
  | trapped | supervisor | fromInterrupt | fromException | latched | wrotePid | wroteTlb | storedWord | storedByte
  | sentWord | sentByte | quiet => exact .inl ⟨rfl, rfl⟩

/-- Settles O19: what computes flags is of another unit, is no `load`, and sets no `EIP`. -/
theorem onlyFlagWritersChangeFlags : Obligations.OnlyFlagWritersChangeFlags := by
  intro i s t hexec hi
  obtain hkept | ⟨⟨hunit, hrr, hri⟩, heip⟩ := (exec_effect i hexec).flags
  · exact hkept
  · obtain hmain | hnone | ⟨x, y, rfl⟩ | ⟨x, b, rfl⟩ | ⟨hclear, hset⟩ := hi
    · simp [hmain] at hunit
    · simp [hnone] at hunit
    · exact absurd rfl (hrr x y)
    · exact absurd rfl (hri x b)
    · rw [hset, hclear] at heip
      cases heip

/-- Every instruction but `imm` consumes the latch; spec/40_imm_prefix.md R140. -/
theorem Effect.latch (h : Effect i s t) : t.immv = false ∨ ∃ a, i = .imm a := by
  cases h with
  | latched a hi => exact .inr ⟨a, hi⟩
  | trapped | supervisor | fromInterrupt | fromException | wroteSpr | wrotePid | wroteTlb | storedWord | storedByte
  | sentWord | sentByte | quiet | computed => exact .inl rfl

/-- A word encodes a well-formed instruction if the encoder writes it. -/
theorem encodes_of_encode {w : Word} (hwf : i.wf = true) (henc : encode i = w) : Encodes w i :=
  ⟨henc ▸ decodeInvertsEncode i hwf, henc⟩

/-- Settles O20: `imm` latches its field, and the latch is consumed by every other instruction. -/
theorem prefixLatchesForOneInstruction : Obligations.PrefixLatchesForOneInstruction := by
  refine ⟨fun a => ⟨encodes_of_encode rfl (BitVec.setWidth_eq_append (by decide)).symm, fun s hfree => ?_⟩,
    fun i s t hi hexec => ?_⟩
  · exact ⟨_, exec_imm_latches a hfree, rfl, rfl, rfl, fun _ => rfl, ⟨rfl, rfl⟩, ⟨fun _ => rfl, rfl⟩,
      ⟨rfl, ⟨rfl, rfl, rfl⟩, rfl, rfl, rfl⟩, fun _ => rfl, fun _ => rfl, ⟨rfl, fun _ => rfl⟩,
      ⟨rfl, rfl, rfl, rfl, rfl, rfl, rfl, rfl⟩, rfl, rfl, rfl⟩
  · obtain hdropped | ⟨a, rfl⟩ := (exec_effect i hexec).latch
    · exact hdropped
    · exact absurd rfl (hi a)

end Sys2Proof.Machine
end

section
/-! PROOFS. No instruction ends in a fault of the model, so no step from an even `pc` does (spec/10_state.md R25,
log 19). -/

namespace Sys2Proof.Machine

section
variable {s : State} {k : State → Result}

theorem safe_next (t : State) : Safe (.next t) := fun _ h => nomatch h

theorem safe_refused (r : Refusal) : Safe (.refused r) := fun _ h => nomatch h

theorem safe_complete : Safe (complete s) := safe_next _

theorem safe_raise (x : Exc) : Safe (raise x s) := by
  obtain ⟨_, _, h⟩ | ⟨_, h⟩ | ⟨_, _, h⟩ := raise_cases x s
  · exact h ▸ safe_next _
  · exact h ▸ safe_refused _
  · exact h ▸ safe_refused _

theorem safe_unprefixed (hk : ∀ u, Safe (k u)) : Safe (unprefixed s k) := by
  obtain ⟨_, h⟩ | ⟨_, _, h⟩ | ⟨_, _, h⟩ := unprefixed_cases s k
  · exact h ▸ hk s
  · exact h ▸ safe_refused _
  · exact h ▸ hk s.dropLatch

theorem safe_kernelOnly (hk : ∀ u, Safe (k u)) : Safe (kernelOnly s k) := by
  obtain ⟨_, h⟩ | ⟨_, h⟩ := kernelOnly_cases s k
  · exact h ▸ hk s
  · exact h ▸ safe_refused _

theorem safe_needsUnit (p : Bool) (hk : ∀ u, Safe (k u)) : Safe (needsUnit p s k) := by
  obtain ⟨_, h⟩ | ⟨_, _, h⟩ | ⟨_, _, h⟩ := needsUnit_cases p s k
  · exact h ▸ hk s
  · exact h ▸ safe_raise _
  · exact h ▸ safe_refused _

theorem safe_floatUnit (hk : ∀ u, Safe (k u)) : Safe (floatUnit s k) :=
  safe_needsUnit _ fun _ => safe_unprefixed hk

theorem safe_aligned (a : Addr) (hk : ∀ u, Safe (k u)) : Safe (aligned a s k) := by
  unfold aligned
  split
  · exact safe_raise _
  · exact hk s

theorem safe_sprMove (r : Spr) (hk : ∀ u, Safe (k u)) : Safe (sprMove r s k) := by
  unfold sprMove
  split
  · exact safe_refused _
  · split
    · exact safe_refused _
    · exact hk s

theorem safe_callIf (cond : Cond) (a : Addr) : Safe (callIf cond a s) := by
  unfold callIf
  split
  · exact safe_next _
  · exact safe_complete

theorem safe_divWith (x : RegNum) (d : Word) : Safe (divWith x d s) := by
  unfold divWith
  split
  · exact safe_raise _
  · exact safe_complete

theorem safe_divsWith (x : RegNum) (d : Word) : Safe (divsWith x d s) := by
  unfold divsWith
  split
  · exact safe_raise _
  · exact safe_complete

theorem safe_ldwFrom (x : RegNum) (a : Addr) : Safe (ldwFrom x a s) := by
  unfold ldwFrom
  split
  · exact safe_refused _
  · exact safe_complete

theorem safe_ldbFrom (x : RegNum) (a : Addr) : Safe (ldbFrom x a s) := by
  unfold ldbFrom
  split
  · exact safe_refused _
  · exact safe_complete

theorem safe_stwTo (x : RegNum) (a : Addr) : Safe (stwTo x a s) := by
  unfold stwTo
  split
  · exact safe_refused _
  · exact safe_complete

theorem safe_stbTo (x : RegNum) (a : Addr) : Safe (stbTo x a s) := by
  unfold stbTo
  split
  · exact safe_refused _
  · exact safe_complete

end

/-- No instruction ends in a fault, by the guards and the operation of its meaning. -/
theorem exec_safe (i : Instr) (s : State) : Safe (exec i s) := by
  cases i with
  | addRI | adcRI | subRI | sbbRI | andRI | orRI | xorRI | cmpRI | testRI | loadRI =>
    simp only [exec, execAddRI, execAdcRI, execSubRI, execSbbRI, execAndRI, execOrRI, execXorRI, execCmpRI, execTestRI,
      execLoadRI, addWith, adcWith, subWith, sbbWith, andWith, orWith, xorWith, cmpWith, testWith, loadWith]
    exact safe_complete
  | mulRI | mulsRI =>
    simp only [exec, execMulRI, execMulsRI, multiplyTo]
    exact safe_complete
  | addRR | adcRR | subRR | sbbRR | andRR | orRR | xorRR | cmpRR | testRR | loadRR =>
    simp only [exec, execAddRR, execAdcRR, execSubRR, execSbbRR, execAndRR, execOrRR, execXorRR, execCmpRR, execTestRR,
      execLoadRR, addWith, adcWith, subWith, sbbWith, andWith, orWith, xorWith, cmpWith, testWith, loadWith]
    exact safe_unprefixed fun _ => safe_complete
  | mulRR | mulsRR =>
    simp only [exec, execMulRR, execMulsRR, multiplyTo]
    exact safe_unprefixed fun _ => safe_complete
  | sla | slx | sl0 | sl1 | rl | sra | srx | sr0 | sr1 | rr =>
    simp only [exec, execSla, execSlx, execSl0, execSl1, execRl, execSra, execSrx, execSr0, execSr1, execRr,
      shiftLeftWith, shiftRightWith]
    exact safe_unprefixed fun _ => safe_complete
  | incpr | wincpr | decpr | wdecpr =>
    simp only [exec, execIncpr, execWincpr, execDecpr, execWdecpr]
    exact safe_unprefixed fun _ => safe_complete
  | imm | ret =>
    simp only [exec, execImm, execRet]
    exact safe_unprefixed fun _ => safe_next _
  | divRI =>
    simp only [exec, execDivRI]
    exact safe_divWith _ _
  | divsRI =>
    simp only [exec, execDivsRI]
    exact safe_divsWith _ _
  | divRR =>
    simp only [exec, execDivRR]
    exact safe_unprefixed fun _ => safe_divWith _ _
  | divsRR =>
    simp only [exec, execDivsRR]
    exact safe_unprefixed fun _ => safe_divsWith _ _
  | bsl | bsr =>
    simp only [exec, execBsl, execBsr]
    exact safe_needsUnit _ fun _ => safe_unprefixed fun _ => safe_complete
  | fmul | fdiv | fadd | fsub | fcmp | fint | fflt =>
    simp only [exec, execFmul, execFdiv, execFadd, execFsub, execFcmp, execFint, execFflt]
    exact safe_floatUnit fun _ => safe_complete
  | jump | jumpNz | jumpZ | jumpNc | jumpC => exact safe_next _
  | jumpRel | jumpRelNz | jumpRelZ | jumpRelNc | jumpRelC => exact safe_unprefixed fun _ => safe_next _
  | call | callNz | callZ | callNc | callC =>
    simp only [exec, execCall, execCallNz, execCallZ, execCallNc, execCallC]
    exact safe_callIf _ _
  | callRel | callRelNz | callRelZ | callRelNc | callRelC =>
    simp only [exec, execCallRel, execCallRelNz, execCallRelZ, execCallRelNc, execCallRelC]
    exact safe_unprefixed fun _ => safe_callIf _ _
  | svc =>
    simp only [exec, execSvc]
    refine safe_unprefixed fun u => ?_
    split
    · exact safe_refused _
    · exact safe_next _
  | reti | rete =>
    simp only [exec, execReti, execRete]
    exact safe_unprefixed fun _ => safe_kernelOnly fun _ => safe_next _
  | ldwAbs =>
    simp only [exec, execLdwAbs]
    exact safe_ldwFrom _ _
  | stwAbs =>
    simp only [exec, execStwAbs]
    exact safe_stwTo _ _
  | ldbAbs =>
    simp only [exec, execLdbAbs]
    exact safe_ldbFrom _ _
  | stbAbs =>
    simp only [exec, execStbAbs]
    exact safe_stbTo _ _
  | ldwIdx =>
    simp only [exec, execLdwIdx]
    exact safe_unprefixed fun _ => safe_aligned _ fun _ => safe_ldwFrom _ _
  | stwIdx =>
    simp only [exec, execStwIdx]
    exact safe_unprefixed fun _ => safe_aligned _ fun _ => safe_stwTo _ _
  | ldbIdx =>
    simp only [exec, execLdbIdx]
    exact safe_unprefixed fun _ => safe_ldbFrom _ _
  | stbIdx =>
    simp only [exec, execStbIdx]
    exact safe_unprefixed fun _ => safe_stbTo _ _
  | ldspr | stspr =>
    simp only [exec, execLdspr, execStspr]
    exact safe_unprefixed fun _ => safe_sprMove _ fun _ => safe_complete
  | ldpid | ldtlb =>
    simp only [exec, execLdpid, execLdtlb]
    exact safe_needsUnit _ fun _ => safe_unprefixed fun _ => safe_kernelOnly fun _ => safe_complete

theorem runNext_safe (s : State) : Safe (runNext s) := by
  unfold runNext runWord
  split
  · split
    · exact exec_safe _ _
    · exact safe_raise _
  · exact safe_refused _

/-- Settles O12: past the check of `pc` no part of a step faults. -/
theorem stepNeverFaultsFromEvenPc : Obligations.StepNeverFaultsFromEvenPc := by
  intro s hpc
  rw [step, cycle, hpc]
  rw [if_neg Bool.false_ne_true]
  split
  · exact safe_refused _
  · split
    · exact safe_next _
    · exact runNext_safe _

end Sys2Proof.Machine
end

section
/-! PROOFS. The guards of an instruction: the `imm` it does not take, and the unit the build leaves out
(spec/30_encoding.md R112, R126). -/

namespace Sys2Proof.Machine

/-- With its unit an instruction of an optional unit runs. -/
theorem needsUnit_present {present : Bool} (s : State) (k : State → Result) (h : present = true) :
    needsUnit present s k = k s := if_pos h

/-- An instruction that `imm` does not extend, with its unit, starts with the check of the latch. -/
theorem exec_eq_unprefixed (i : Instr) (hi : i.format.takesPrefix = false) :
    ∃ k, ∀ s : State, s.hasUnitOf i = true → exec i s = unprefixed s k := by
  cases i with
  | addRI | adcRI | subRI | sbbRI | andRI | orRI | xorRI | cmpRI | testRI | loadRI | mulRI | mulsRI | divRI | divsRI | jump
  | jumpNz | jumpZ | jumpNc | jumpC | call | callNz | callZ | callNc | callC | ldwAbs | stwAbs | ldbAbs | stbAbs =>
    cases hi
  | bsl | bsr =>
    simp only [exec, execBsl, execBsr]
    exact ⟨_, fun s (hbarrel : s.cfg.hasBarrel = true) => needsUnit_present s _ hbarrel⟩
  | fmul | fdiv | fadd | fsub | fcmp | fint | fflt =>
    simp only [exec, execFmul, execFdiv, execFadd, execFsub, execFcmp, execFint, execFflt, floatUnit]
    exact ⟨_, fun s (hfpu : s.cfg.hasFpu = true) => needsUnit_present s _ hfpu⟩
  | ldpid | ldtlb =>
    simp only [exec, execLdpid, execLdtlb]
    exact ⟨_, fun s (hmmu : s.cfg.hasMmu = true) => needsUnit_present s _ hmmu⟩
  | imm | addRR | adcRR | subRR | sbbRR | andRR | orRR | xorRR | sla | slx | sl0 | sl1 | rl | sra | srx | sr0 | sr1 | rr
  | cmpRR | testRR | loadRR | mulRR | mulsRR | divRR | divsRR | jumpRel | jumpRelNz | jumpRelZ | jumpRelNc | jumpRelC
  | callRel | callRelNz | callRelZ | callRelNc | callRelC | svc | ret | reti | rete | ldwIdx | stwIdx | ldbIdx | stbIdx
  | ldspr | stspr | incpr | wincpr | decpr | wdecpr => exact ⟨_, fun _ _ => rfl⟩

/-- Settles O21: the check refuses the instruction, or drops the latch and runs it. -/
theorem prefixBeforeOthers : Obligations.PrefixBeforeOthers := by
  intro i s hpending hformat hunit
  obtain ⟨k, hk⟩ := exec_eq_unprefixed i hformat
  refine ⟨fun hrefuse => ?_, fun hignore => ?_⟩
  · rw [hk s hunit, unprefixed, if_pos hpending, hrefuse]
  · have hdropped : exec i s.dropLatch = unprefixed s.dropLatch k := hk s.dropLatch hunit
    have hfree : unprefixed s.dropLatch k = k s.dropLatch := unprefixed_free k (.inl rfl)
    show exec i s = exec i s.dropLatch
    rw [hdropped, hfree, hk s hunit, unprefixed_free k (.inr hignore)]

/-- An instruction whose unit is absent starts with the check for it. -/
theorem exec_eq_needsUnit (i : Instr) (s : State) (hi : s.hasUnitOf i = false) :
    ∃ k, exec i s = needsUnit false s k := by
  cases i with
  | bsl | bsr =>
    have hbarrel : s.cfg.hasBarrel = false := hi
    simp only [exec, execBsl, execBsr, hbarrel]
    exact ⟨_, rfl⟩
  | fmul | fdiv | fadd | fsub | fcmp | fint | fflt =>
    have hfpu : s.cfg.hasFpu = false := hi
    simp only [exec, execFmul, execFdiv, execFadd, execFsub, execFcmp, execFint, execFflt, floatUnit, hfpu]
    exact ⟨_, rfl⟩
  | ldpid | ldtlb =>
    have hmmu : s.cfg.hasMmu = false := hi
    simp only [exec, execLdpid, execLdtlb, hmmu]
    exact ⟨_, rfl⟩
  | _ => cases hi

/-- Raising an exception enters it or is refused, by `E` and `EIP`; spec/60_exceptions.md R305 to R307. -/
theorem raise_traps (x : Exc) (s : State) : Traps x.code (s.earAfter x) s (raise x s) := by
  refine ⟨fun htrap => ⟨_, raise_of_canTrap x htrap, enterException_enters x s⟩, fun he => ?_, fun he heip => ?_⟩
  · simp [raise, he]
  · simp [raise, he, heip]

/-- Settles O22: the check raises IllegalOpcode or refuses, by the policy. -/
theorem absentUnitTrapsOrRefuses : Obligations.AbsentUnitTrapsOrRefuses := by
  intro i s habsent
  obtain ⟨k, hk⟩ := exec_eq_needsUnit i s habsent
  rw [hk]
  refine ⟨fun hillegal => ?_, fun hrefuse => ?_⟩
  · have hraise : needsUnit false s k = raise .illegalOpcode s := by
      rw [needsUnit, hillegal]
      rfl
    rw [hraise]
    exact raise_traps .illegalOpcode s
  · rw [needsUnit, hrefuse]
    rfl

end Sys2Proof.Machine
end

section
/-! PROOFS. The parts of a step by their conditions: the refusals, the interrupt, the fetch, and what runs
(spec/60_exceptions.md R300, R311; spec/20_memory.md R76, R80, R91). -/

namespace Sys2Proof.Machine

section
variable {s : State}

/-- With translation on a step is refused; spec/60_exceptions.md R300. -/
theorem step_of_virtual (hpc : s.pc.getLsbD 0 = false) (hvm : s.msr.vm = true) : step s = .refused .virtualMode := by
  simp only [step, cycle, hpc, hvm, if_true, Bool.false_eq_true, if_false]

/-- A due interrupt is entered before the fetch; spec/60_exceptions.md R311. -/
theorem step_of_interruptDue (hpc : s.pc.getLsbD 0 = false) (hvm : s.msr.vm = false) (hdue : s.interruptDue = true) :
    step s = .next s.popIrq.enterInterrupt := by
  simp only [step, cycle, hpc, hvm, hdue, if_true, Bool.false_eq_true, if_false]

/-- Otherwise a step runs the word at `pc`. -/
theorem step_of_not_due (hpc : s.pc.getLsbD 0 = false) (hvm : s.msr.vm = false)
    (hdue : ¬ (s.irq.headD false = true ∧ s.msr.i = true ∧ s.msr.eip = false ∧ s.immv = false)) :
    step s = runNext s.popIrq := by
  have hdue : s.interruptDue = false := Bool.eq_false_iff.2 fun h => hdue ((interruptDue_iff s).1 h)
  simp only [step, cycle, hpc, hvm, hdue, Bool.false_eq_true, if_false]

/-- A fetch of a byte that was stored to is refused; spec/20_memory.md R91. -/
theorem fetch_of_stored (hmark : s.pc.toNat ∈ s.stored ∨ (s.pc + 1#24).toNat ∈ s.stored) :
    s.fetch = .error (.fetchOfStored s.pc) :=
  if_pos (by simpa only [Bool.or_eq_true, List.contains_iff_mem] using hmark)

/-- Any other fetch is a read of the platform. -/
theorem fetch_of_not_stored (hfirst : s.pc.toNat ∉ s.stored) (hsecond : (s.pc + 1#24).toNat ∉ s.stored) :
    s.fetch = s.loadWord .fetch s.pc :=
  if_neg (by simp only [Bool.or_eq_true, List.contains_iff_mem, hfirst, hsecond, or_self, not_false_eq_true])

/-- A 16-bit read where the platform has nothing is refused; spec/20_memory.md R80. -/
theorem loadWord_of_not_admitted {k : AccessKind} {a : Addr} (hnone : s.regionKind k a = none) :
    s.loadWord k a = .error (.notAdmitted k a) := by
  rw [State.loadWord, hnone]

/-- A 16-bit read of a device is recorded and gives a free value (log 6); spec/20_memory.md R80. -/
theorem loadWord_of_device {k : AccessKind} {a : Addr} (hdev : s.regionKind k a = some .device) :
    s.loadWord k a = .ok (Config.deviceWord s.deviceLog k a, s.tell (.read k a)) := by
  rw [State.loadWord, hdev]

theorem runNext_of_fetch_error {r : Refusal} (hfetch : s.fetch = .error r) : runNext s = .refused r := by
  rw [runNext, hfetch]

theorem runNext_of_fetch {w : Word} {u : State} (hfetch : s.fetch = .ok (w, u)) : runNext s = runWord w u := by
  rw [runNext, hfetch]

theorem runWord_of_decodes {w : Word} {i : Instr} (hdecode : decodeWord w = .ok i) : runWord w s = exec i s := by
  rw [runWord, hdecode]

/-- A word that is no instruction raises IllegalOpcode, which keeps `EAR`; spec/60_exceptions.md R300 step 4. -/
theorem runWord_traps {w : Word} {r : DecodeError} (hdecode : decodeWord w = .error r) :
    Traps 3#4 s.ear s (runWord w s) := by
  rw [runWord, hdecode]
  exact raise_traps .illegalOpcode s

end

/-- Settles O6: the fetch gives the word the two bytes make, and it decodes. -/
theorem stepRunsDecodedInstruction : Obligations.StepRunsDecodedInstruction := by
  intro s i hpc hvm hdue hmem hfirst hsecond hdecode
  have hword : decodeWord (s.wordAt s.pc) = .ok i := by
    rw [decodeBytes] at hdecode
    split at hdecode
    next j hj =>
      cases hdecode
      exact hj
    next => cases hdecode
  have hfetch : s.popIrq.fetch = .ok (s.popIrq.wordFrom s.pc, s.popIrq) :=
    (fetch_of_not_stored (s := s.popIrq) hfirst hsecond).trans (loadWord_of_isMemory (s := s.popIrq) hmem)
  rw [step_of_not_due hpc hvm hdue, runNext_of_fetch hfetch]
  exact runWord_of_decodes (wordAt_eq_wordFrom s s.pc ▸ hword)

/-- Settles O7: the other ends of a step, in the order of the checks. -/
theorem stepTrapsOrRefuses : Obligations.StepTrapsOrRefuses := by
  intro s hpc
  refine ⟨step_of_virtual hpc, fun hvm hdue => ?_⟩
  rw [step_of_not_due hpc hvm hdue]
  split
  next hmark => exact runNext_of_fetch_error (fetch_of_stored (s := s.popIrq) hmark)
  next hclean =>
    obtain ⟨hfirst, hsecond⟩ := not_or.1 hclean
    have hfetch : s.popIrq.fetch = s.popIrq.loadWord .fetch s.pc := fetch_of_not_stored hfirst hsecond
    split
    next hnone => exact runNext_of_fetch_error (hfetch.trans (loadWord_of_not_admitted hnone))
    next =>
      refine ⟨fun r hmem hdecode => ?_, ?_⟩
      · rw [runNext_of_fetch (hfetch.trans (loadWord_of_isMemory hmem))]
        exact runWord_traps (s := s.popIrq) hdecode
      · rintro u rfl hdev
        rw [runNext_of_fetch (hfetch.trans (loadWord_of_device hdev))]
        exact ⟨fun i hdecode => runWord_of_decodes hdecode,
          fun r hdecode => runWord_traps (s := s.popIrq.tell (.read .fetch s.pc)) hdecode⟩

/-- Settles O8: the entry of the interrupt, whose own fields are read off. -/
theorem interruptEntered : Obligations.InterruptEntered := by
  intro s hpc hvm hirq hi heip hlatch
  have hdue : s.interruptDue = true := (interruptDue_iff s).2 ⟨hirq, hi, heip, hlatch⟩
  exact ⟨_, step_of_interruptDue hpc hvm hdue, enterInterrupt_enters hlatch, rfl, rfl, heip, rfl, rfl, rfl, rfl, rfl⟩

end Sys2Proof.Machine
end

section
/-! PROOFS. A word placed at `pc` (log 20) is the word that is fetched. -/

namespace Sys2Proof.Machine

/-- The bytes of memory after a word is placed. -/
theorem byteAt_placeWord (s : State) (w : Word) (a : Addr) :
    (s.placeWord w).byteAt a =
      if a = s.pc + 1#24 then secondByte s.cfg.endian w else if a = s.pc then firstByte s.cfg.endian w else s.byteAt a := by
  have hne {b c : Addr} (h : b ≠ c) : b.toNat ≠ c.toNat := fun e => h (BitVec.eq_of_toNat_eq e)
  unfold State.byteAt State.placeWord
  split
  next h => rw [h, Memory.read_write_same]
  next h =>
    rw [Memory.read_write_ne _ _ (hne h)]
    split
    next h' => rw [h', Memory.read_write_same]
    next h' => rw [Memory.read_write_ne _ _ (hne h')]

/-- The placed word reads back. -/
theorem wordFrom_placeWord (s : State) (w : Word) : (s.placeWord w).wordFrom s.pc = w := by
  have hfirst : (s.placeWord w).byteAt s.pc = firstByte s.cfg.endian w := by
    rw [byteAt_placeWord, if_neg (addr_ne_succ s.pc), if_pos rfl]
  have hsecond : (s.placeWord w).byteAt (s.pc + 1#24) = secondByte s.cfg.endian w := by
    rw [byteAt_placeWord, if_pos rfl]
  rw [← wordAt_eq_wordFrom, State.wordAt, hfirst, hsecond]
  exact joinBytes_split s.cfg.endian w

/-- Settles O5: placing clears the marks of the two bytes, so the fetch reads them. -/
theorem placedWordIsFetched : Obligations.PlacedWordIsFetched := by
  intro s w hmem
  have hword : tableWord 16 w.toNat = w := by
    rw [tableWord, Nat.mod_eq_of_lt w.isLt, BitVec.ofNat_toNat, BitVec.setWidth_eq]
  have hfetch : (s.placeWord w).fetch = .ok (w, s.placeWord w) := by
    have hread : (s.placeWord w).loadWord .fetch s.pc = .ok (w, s.placeWord w) := by
      rw [loadWord_of_isMemory (s := s.placeWord w) hmem, wordFrom_placeWord]
    exact (fetch_of_not_stored (by simp [State.placeWord]) (by simp [State.placeWord])).trans hread
  refine ⟨s.placeWord w, by rw [State.withFetchWord, hword], hfetch, wordFrom_placeWord s w, fun a hfirst hsecond => ?_,
    rfl, rfl, rfl, rfl, fun _ => rfl, ?_⟩
  · rw [byteAt_placeWord, if_neg hsecond, if_neg hfirst]
  · exact ⟨⟨rfl, ⟨rfl, rfl, rfl⟩, rfl, rfl, rfl⟩, fun _ => rfl, fun _ => rfl, ⟨rfl, fun _ => rfl⟩,
      ⟨rfl, rfl, rfl, rfl, rfl, rfl, rfl, rfl⟩, rfl, rfl, rfl⟩

end Sys2Proof.Machine
end

section
/-! PROOFS. The state after reset (spec/70_reset_and_hazards.md R350), and the MSR as a number (spec/10_state.md
R31). -/

namespace Sys2Proof.Machine

/-- The number of a concatenation. -/
theorem toNat_append_eq_add {n m : Nat} (x : BitVec n) (y : BitVec m) : (x ++ y).toNat = 2 ^ m * x.toNat + y.toNat := by
  rw [BitVec.toNat_append, ← Nat.shiftLeft_add_eq_or_of_lt y.isLt, Nat.shiftLeft_eq, Nat.mul_comm]

/-- The MSR's read view as a number, each field at its place. -/
theorem msr_toLong_toNat (s : State) : s.msr.toLong.toNat = s.sprView 0 := by
  simp only [Msr.toLong, bit, toNat_append_eq_add, BitVec.toNat_ofBool, BitVec.toNat_zero, State.sprView]
  omega

/-- Storing a value in the MSR keeps the bits of the fields; spec/10_state.md R31, R33. -/
theorem ofLong_toLong (v : Long) : (Msr.ofLong v).toLong = v &&& 0xE00F003F#32 := by
  refine BitVec.eq_of_getLsbD_eq fun i hi => ?_
  simp only [Msr.toLong, Msr.ofLong, bit, BitVec.getLsbD_append]
  interval_cases i <;> simp

/-- Settles O10: reset leaves `pc` even and memory blank, and takes the exception code from bits 19:16 of `RESET_MSR`. -/
theorem resetMeetsInvariant : Obligations.ResetMeetsInvariant := by
  have hcode (c : Config) : (State.resetOf c).msr.ec.toNat = c.resetMsr.toNat / 2 ^ 16 % 2 ^ 4 := by
    show (c.resetMsr.extractLsb' 16 4).toNat = _
    rw [BitVec.extractLsb'_toNat, Nat.shiftRight_eq_div_pow]
  have hinv (c : Config) : (State.resetOf c).Inv ↔ c.resetMsr.toNat / 2 ^ 16 % 2 ^ 4 ≤ 3 :=
    ⟨fun h => hcode c ▸ h.codeLegal, fun h =>
      { pcEven := linkAddr_even c.resetVbar
        codeLegal := (hcode c).symm ▸ h
        memoryCanonical := rfl
        marksRising := .nil
        marksInMemory := nofun }⟩
  exact ⟨(hinv {}).2 (by decide), hinv⟩

/-- Settles O11: `pc` and `VBAR` from `RESET_VBAR`, the MSR from `RESET_MSR`. -/
theorem resetIsAtTheVector : Obligations.ResetIsAtTheVector := by
  refine ⟨rfl, rfl, rfl, rfl, fun c => ⟨rfl, ?pc, ?vbar, ?msr⟩⟩
  case pc =>
    have hpc : (State.resetOf c).pc = BitVec.ofNat 24 (c.resetVbar.toNat % 2 ^ 24 / 2 * 2) :=
      linkAddr_eq_ofNat c.resetVbar
    rw [hpc, BitVec.toNat_ofNat]
    omega
  case vbar =>
    show 2 * (c.resetVbar.extractLsb' 1 23).toNat = _
    rw [BitVec.extractLsb'_toNat, Nat.shiftRight_eq_div_pow]
    omega
  case msr =>
    have hmsr : (State.resetOf c).msr.toLong = c.resetMsr &&& 0xE00F003F#32 := ofLong_toLong c.resetMsr
    rw [← msr_toLong_toNat, hmsr]

end Sys2Proof.Machine
end

section
/-! PROOFS. Two statements about single rows of the opcode map. -/

namespace Sys2Proof.Machine

/-- Settles O4: each word is the encoding of the instruction beside it. -/
theorem sampleWordsDecode : Obligations.SampleWordsDecode := by
  have hdecode {w : Word} (i : Instr) (hwf : i.wf = true) (henc : encode i = w) : decodeWord w = .ok i :=
    (encodes_of_encode hwf henc).1
  exact ⟨hdecode _ rfl rfl, hdecode _ rfl rfl, hdecode _ rfl rfl, hdecode _ rfl rfl, hdecode _ rfl rfl, hdecode _ rfl rfl,
    hdecode _ rfl rfl, hdecode _ rfl rfl, hdecode _ rfl rfl, hdecode _ rfl rfl, hdecode _ rfl rfl, hdecode _ rfl rfl,
    hdecode _ rfl rfl, hdecode _ rfl rfl⟩

/-- Settles O59: to subtract 2 is to add -2. -/
theorem indexWordDecrement : Obligations.IndexWordDecrement :=
  indexStep_of_op (· - 2#32) (encodes_indexField 78 0b11001000011100#14 rfl rfl fun _ => rfl)
    (fun _ _ => rfl) fun v => BitVec.sub_eq_add_neg v 2#32

end Sys2Proof.Machine
end

section
/-! PROOFS. What the remaining operations of the integer unit do on their second operand (spec/41_alu_integer.md). -/

namespace Sys2Proof.Machine

variable (x : RegNum) (v : Word) (s : State)

/-! ### Addition -/

/-- Bit 16 of a sum of two words and a carry says whether it passes 16 bits; spec/41_alu_integer.md R152. -/
theorem addCarry_eq (a b : Word) (cin : Bool) :
    addCarry a b cin =
      (BitVec.ofNat 16 (a.toNat + b.toNat + cin.toNat), decide (2 ^ 16 ≤ a.toNat + b.toNat + cin.toNat)) := by
  have hcarry : (a.toNat + b.toNat + cin.toNat).testBit 16 = decide (2 ^ 16 ≤ a.toNat + b.toNat + cin.toNat) := by
    have hcin := cin.toNat_le
    rw [Nat.testBit_eq_decide_div_mod_eq, decide_eq_decide]
    omega
  rw [addCarry, hcarry]

/-- The sum with a carry in, completed. -/
theorem complete_addCarry_adds (cin : Bool) :
    ∃ t, complete (s.putResult x (addCarry (s.reg x) v cin).1 (addCarry (s.reg x) v cin).2) = .next t ∧
      AddsTo x ((s.reg x).toNat + v.toNat + cin.toNat) s t := by
  unfold AddsTo
  rw [addCarry_eq, ← isZero_ofNat]
  exact complete_putResult x _ s _

theorem addWith_adds : ∃ t, addWith x v s = .next t ∧ AddsTo x ((s.reg x).toNat + v.toNat) s t :=
  complete_addCarry_adds x v s false

theorem adcWith_adds : ∃ t, adcWith x v s = .next t ∧ AddsTo x ((s.reg x).toNat + v.toNat + s.msr.c.toNat) s t :=
  complete_addCarry_adds x v s s.msr.c

/-! ### Subtraction with the carry inverted -/

/-- With `SUB_CARRY_IS_BORROW = false` the carry says that there is no borrow; spec/41_alu_integer.md R191. -/
theorem carryOfBorrow_inverted (h : s.cfg.subCarryIsBorrow = false) (d : Int) :
    s.carryOfBorrow (decide (d < 0)) = decide (0 ≤ d) := by
  rw [State.carryOfBorrow, h, if_neg Bool.false_ne_true, ← decide_not, decide_eq_decide, not_lt]

/-- The result and the inverted borrow of an exact difference `d`, completed. -/
theorem complete_putResult_subtractsInverted (h : s.cfg.subCarryIsBorrow = false) (d : Int) :
    ∃ t, complete (s.putResult x (BitVec.ofInt 16 d) (s.carryOfBorrow (decide (d < 0)))) = .next t ∧
      SubtractsInverted x d s t := by
  unfold SubtractsInverted
  rw [carryOfBorrow_inverted s h, ← isZero_ofInt]
  exact complete_putResult x _ s _

theorem subWith_subtractsInverted (h : s.cfg.subCarryIsBorrow = false) :
    ∃ t, subWith x v s = .next t ∧ SubtractsInverted x ((s.reg x).toNat - v.toNat : Int) s t := by
  have hd : ((s.reg x).toNat - v.toNat : Int) = (s.reg x).toNat - v.toNat - false.toNat := by simp
  rw [hd]
  exact complete_putResult_subtractsInverted x s h _

theorem sbbWith_subtractsInverted (h : s.cfg.subCarryIsBorrow = false) :
    ∃ t, sbbWith x v s = .next t ∧
      SubtractsInverted x ((s.reg x).toNat - v.toNat - (1 - s.msr.c.toNat) : Int) s t := by
  have hin : (1 - s.msr.c.toNat : Int) = s.borrowIn.toNat := by
    rw [State.borrowIn, h, if_neg Bool.false_ne_true]
    cases s.msr.c <;> rfl
  rw [hin]
  exact complete_putResult_subtractsInverted x s h _

/-! ### Flags only -/

/-- The flags of a result thrown away, and nothing else changed. -/
theorem complete_putFlagsOf (c : Bool) :
    ∃ t, complete (s.putFlagsOf v c) = .next t ∧ WritesFlags (isZero v) c s t :=
  ⟨_, complete_eq _, rfl, rfl, fun _ => rfl, ⟨fun _ => rfl, rfl⟩, keepsSystem_of_flags s s.regs _ _ _, rfl, rfl⟩

/-- The difference of two words is zero, modulo 2^16, when they are equal; spec/41_alu_integer.md R176. -/
theorem isZero_subBorrow (a : Word) : isZero (subBorrow a v false).1 = decide (a = v) := by
  rw [subBorrow, isZero_ofInt, decide_eq_decide, ← BitVec.toNat_inj, Bool.toNat_false]
  omega

/-- `cmp`: `Z` for equal, and `C` by the borrow. -/
theorem cmpWith_writes :
    ∃ t, cmpWith x v s = .next t ∧
      WritesFlags (decide (s.reg x = v)) (s.carryOfBorrow (decide (((s.reg x).toNat - v.toNat : Int) < 0))) s t := by
  have hborrow : (subBorrow (s.reg x) v false).2 = decide (((s.reg x).toNat - v.toNat : Int) < 0) := by
    rw [subBorrow, Bool.toNat_false, Nat.cast_zero, Int.sub_zero]
  rw [← isZero_subBorrow, ← hborrow]
  exact complete_putFlagsOf _ s _

theorem cmpWith_borrows (h : s.cfg.subCarryIsBorrow = true) :
    ∃ t, cmpWith x v s = .next t ∧ WritesFlags (decide (s.reg x = v)) (decide ((s.reg x).toNat < v.toNat)) s t := by
  have hcarry : s.carryOfBorrow (decide (((s.reg x).toNat - v.toNat : Int) < 0)) =
      decide ((s.reg x).toNat < v.toNat) := by
    rw [State.carryOfBorrow, if_pos h, decide_eq_decide]
    omega
  exact hcarry ▸ cmpWith_writes x v s

theorem cmpWith_borrowsInverted (h : s.cfg.subCarryIsBorrow = false) :
    ∃ t, cmpWith x v s = .next t ∧ WritesFlags (decide (s.reg x = v)) (decide (v.toNat ≤ (s.reg x).toNat)) s t := by
  have hcarry : s.carryOfBorrow (decide (((s.reg x).toNat - v.toNat : Int) < 0)) =
      decide (v.toNat ≤ (s.reg x).toNat) := by
    rw [carryOfBorrow_inverted s h, decide_eq_decide]
    omega
  exact hcarry ▸ cmpWith_writes x v s

/-- `test`: `Z` for no common bit, and `C` by the setting for logic. -/
theorem testWith_writes :
    ∃ t, testWith x v s = .next t ∧ WritesFlags (decide (s.reg x &&& v = 0#16)) s.logicCarry s t :=
  complete_putFlagsOf _ s _

theorem testWith_clears (h : s.cfg.logicClearsCarry = true) :
    ∃ t, testWith x v s = .next t ∧ WritesFlags (decide (s.reg x &&& v = 0#16)) false s t := by
  have hcarry : s.logicCarry = false := if_pos h
  exact hcarry ▸ testWith_writes x v s

/-- With `LOGIC_CLEARS_CARRY = false` the carry stays; spec/41_alu_integer.md R192. -/
theorem logicCarry_keeps (h : s.cfg.logicClearsCarry = false) : s.logicCarry = s.msr.c :=
  if_neg (Bool.eq_false_iff.1 h)

theorem testWith_keeps (h : s.cfg.logicClearsCarry = false) :
    ∃ t, testWith x v s = .next t ∧ WritesFlags (decide (s.reg x &&& v = 0#16)) s.msr.c s t :=
  logicCarry_keeps s h ▸ testWith_writes x v s

/-! ### Logic that keeps the carry -/

theorem complete_putResult_logic_keeps (h : s.cfg.logicClearsCarry = false) :
    ∃ t, complete (s.putResult x v s.logicCarry) = .next t ∧ LogicTo x v s.msr.c s t := by
  unfold LogicTo
  rw [logicCarry_keeps s h, ← isZero_eq_decide]
  exact complete_putResult x v s s.msr.c

theorem andWith_keeps (h : s.cfg.logicClearsCarry = false) :
    ∃ t, andWith x v s = .next t ∧ LogicTo x (s.reg x &&& v) s.msr.c s t := complete_putResult_logic_keeps x _ s h

theorem orWith_keeps (h : s.cfg.logicClearsCarry = false) :
    ∃ t, orWith x v s = .next t ∧ LogicTo x (s.reg x ||| v) s.msr.c s t := complete_putResult_logic_keeps x _ s h

theorem xorWith_keeps (h : s.cfg.logicClearsCarry = false) :
    ∃ t, xorWith x v s = .next t ∧ LogicTo x (s.reg x ^^^ v) s.msr.c s t := complete_putResult_logic_keeps x _ s h

/-! ### Multiplication -/

/-- The high half of an exact 32-bit product, as a signed number; spec/41_alu_integer.md R184. -/
theorem ofInt_high_half (n : Int) : (BitVec.ofInt 32 n).extractLsb' 16 16 = BitVec.ofInt 16 (n / 2 ^ 16) := by
  apply BitVec.eq_of_toNat_eq
  rw [BitVec.extractLsb'_toNat, BitVec.toNat_ofInt, BitVec.toNat_ofInt, Nat.shiftRight_eq_div_pow]
  omega

theorem ofInt_low_half (n : Int) : (BitVec.ofInt 32 n).extractLsb' 0 16 = BitVec.ofInt 16 n := by
  apply BitVec.eq_of_toNat_eq
  rw [BitVec.extractLsb'_toNat, BitVec.toNat_ofInt, BitVec.toNat_ofInt, Nat.shiftRight_zero]
  omega

/-- The same of an unsigned product; spec/41_alu_integer.md R182. -/
theorem ofNat_high_half (n : Nat) : (BitVec.ofNat 32 n).extractLsb' 16 16 = BitVec.ofNat 16 (n / 2 ^ 16) := by
  apply BitVec.eq_of_toNat_eq
  rw [BitVec.extractLsb'_toNat, BitVec.toNat_ofNat, BitVec.toNat_ofNat, Nat.shiftRight_eq_div_pow]
  omega

theorem ofNat_low_half (n : Nat) : (BitVec.ofNat 32 n).extractLsb' 0 16 = BitVec.ofNat 16 n := by
  apply BitVec.eq_of_toNat_eq
  rw [BitVec.extractLsb'_toNat, BitVec.toNat_ofNat, BitVec.toNat_ofNat, Nat.shiftRight_zero]
  omega

/-- The registers after a write of `re:rf`; spec/00_scope.md R12. -/
theorem reg_setPair_reRf (p : Long) (q : RegNum) :
    (s.setPair pairReRf p).reg q =
      if q = 14#4 then (if s.cfg.pairHighFirst then p.extractLsb' 16 16 else p.extractLsb' 0 16)
      else if q = 15#4 then (if s.cfg.pairHighFirst then p.extractLsb' 0 16 else p.extractLsb' 16 16)
      else s.reg q := reg_setPair s pairReRf p q

/-- With the flags left open too the rest of the core is as it was. -/
theorem keepsSystem_of_freeFlags (regs : Vector Word 16) (z c : Bool) (pc : Addr) (draws : Nat) :
    KeepsSystem s { s with
      regs := regs, msr := { s.msr with z := z, c := c }, immv := false, pc := pc, draws := draws } :=
  keepsSystem_of_flags s regs z c pc

/-- The halves of a product in `re:rf` with the flags left open, and nothing else changed. -/
theorem multiplyTo_writes (p : Long) :
    ∃ t, multiplyTo p s = .next t ∧ WritesProduct (p.extractLsb' 16 16) (p.extractLsb' 0 16) s t := by
  have hframe : s.setPair pairReRf p = { s with regs := (s.setPair pairReRf p).regs } := setPair_regs s pairReRf p
  refine ⟨_, complete_eq _, ?high, ?low, ?others, ?frame⟩
  case high =>
    show (s.setPair pairReRf p).reg _ = _
    rw [reg_setPair_reRf]
    split <;> rfl
  case low =>
    show (s.setPair pairReRf p).reg _ = _
    rw [reg_setPair_reRf]
    split <;> rfl
  case others =>
    intro r hre hrf
    show (s.setPair pairReRf p).reg _ = _
    rw [reg_setPair_reRf, if_neg hre, if_neg hrf]
  case frame =>
    rw [hframe]
    exact ⟨⟨fun _ => rfl, rfl⟩, keepsSystem_of_freeFlags s _ _ _ _ _, rfl, rfl⟩

theorem mulWith_writes :
    ∃ t, multiplyTo (productUnsigned (s.reg x) v) s = .next t ∧
      WritesProduct (BitVec.ofNat 16 ((s.reg x).toNat * v.toNat / 2 ^ 16))
        (BitVec.ofNat 16 ((s.reg x).toNat * v.toNat)) s t := by
  rw [← ofNat_high_half, ← ofNat_low_half]
  exact multiplyTo_writes s _

theorem mulsWith_writes :
    ∃ t, multiplyTo (productSigned (s.reg x) v) s = .next t ∧
      WritesProduct (BitVec.ofInt 16 ((s.reg x).toInt * v.toInt / 2 ^ 16))
        (BitVec.ofInt 16 ((s.reg x).toInt * v.toInt)) s t := by
  rw [← ofInt_high_half, ← ofInt_low_half]
  exact multiplyTo_writes s _

/-! ### Division -/

/-- `re:rf` as a number; spec/00_scope.md R12. -/
theorem pair_reRf_toNat : (s.pair pairReRf).toNat = s.dividend := by
  unfold State.pair State.dividend
  split <;> exact toNat_append_eq_add _ _

/-- `re:rf` as a signed number; spec/41_alu_integer.md R188. -/
theorem pair_reRf_toInt : (s.pair pairReRf).toInt = s.signedDividend := by
  rw [BitVec.toInt_eq_toNat_cond, pair_reRf_toNat, State.signedDividend]
  split <;> split <;> omega

/-- A quotient put into `rx` with the flags left open, and nothing else changed. -/
theorem complete_quotient_writes (w : Word) (q : Option Word) (hq : ∀ p, q = some p → w = p) :
    ∃ t, complete (s.setReg x w).freeFlags = .next t ∧ WritesQuotient x q s t :=
  ⟨_, complete_eq _, fun p hp => (reg_setReg_same s x w).trans (hq p hp), fun _ hr => reg_setReg_ne s w hr,
    ⟨fun _ => rfl, rfl⟩, keepsSystem_of_freeFlags s _ _ _ _ _, rfl, rfl⟩

theorem divWith_writes (hv : v ≠ 0#16) :
    ∃ t, divWith x v s = .next t ∧ WritesQuotient x (fittingQuotient (s.dividend / v.toNat)) s t := by
  rw [divWith, if_neg hv]
  refine complete_quotient_writes x s _ _ fun p hp => ?_
  unfold fittingQuotient at hp
  rw [State.quotientUnsigned, pair_reRf_toNat]
  split at hp
  next hfits => rw [if_pos hfits, Option.some.inj hp]
  next => cases hp

theorem divsWith_writes (hv : v ≠ 0#16) :
    ∃ t, divsWith x v s = .next t ∧
      WritesQuotient x (fittingSignedQuotient (Int.tdiv s.signedDividend v.toInt)) s t := by
  rw [divsWith, if_neg hv]
  refine complete_quotient_writes x s _ _ fun p hp => ?_
  unfold fittingSignedQuotient at hp
  rw [State.quotientSigned, pair_reRf_toInt]
  split at hp
  next hfits => rw [if_pos hfits, Option.some.inj hp]
  next => cases hp

/-- Division by 0 raises DivByZero; spec/41_alu_integer.md R186. -/
theorem divWith_zero_traps : Traps 1#4 s.ear s (divWith x 0#16 s) := raise_traps .divByZero s

theorem divsWith_zero_traps : Traps 1#4 s.ear s (divsWith x 0#16 s) := raise_traps .divByZero s

end Sys2Proof.Machine
end

section
/-! PROOFS. The statements about the integer unit that the operations above settle. -/

namespace Sys2Proof.Machine

/-- Settles O23: the forms hand their operand to `addWith` and `adcWith`, which write the exact sum. -/
theorem addAndAddWithCarry : Obligations.AddAndAddWithCarry :=
  ⟨registerForm_of_op addWith (encodes_twoFields 1 0x40#8 rfl rfl fun _ _ => rfl)
      (fun _ _ _ => rfl) fun x v s _ => addWith_adds x v s.dropLatch,
    immediateForm_of_op addWith (encodes_twoFields 2 0x60#8 rfl rfl fun _ _ => rfl)
      (fun _ _ _ => rfl) fun x v s _ => addWith_adds x v s,
    registerForm_of_op adcWith (encodes_twoFields 3 0x50#8 rfl rfl fun _ _ => rfl)
      (fun _ _ _ => rfl) fun x v s _ => adcWith_adds x v s.dropLatch,
    immediateForm_of_op adcWith (encodes_twoFields 4 0x70#8 rfl rfl fun _ _ => rfl)
      (fun _ _ _ => rfl) fun x v s _ => adcWith_adds x v s⟩

/-- Settles O26: under these settings the operations invert the borrow, and logic keeps the carry. -/
theorem otherCarrySettings : Obligations.OtherCarrySettings :=
  ⟨registerForm_of_op subWith (encodes_twoFields 5 0x48#8 rfl rfl fun _ _ => rfl)
      (fun _ _ _ => rfl) fun x v s => subWith_subtractsInverted x v s.dropLatch,
    immediateForm_of_op subWith (encodes_twoFields 6 0x68#8 rfl rfl fun _ _ => rfl)
      (fun _ _ _ => rfl) subWith_subtractsInverted,
    registerForm_of_op sbbWith (encodes_twoFields 7 0x58#8 rfl rfl fun _ _ => rfl)
      (fun _ _ _ => rfl) fun x v s => sbbWith_subtractsInverted x v s.dropLatch,
    immediateForm_of_op sbbWith (encodes_twoFields 8 0x78#8 rfl rfl fun _ _ => rfl)
      (fun _ _ _ => rfl) sbbWith_subtractsInverted,
    registerForm_of_op cmpWith (encodes_twoFields 25 0x42#8 rfl rfl fun _ _ => rfl)
      (fun _ _ _ => rfl) fun x v s => cmpWith_borrowsInverted x v s.dropLatch,
    immediateForm_of_op cmpWith (encodes_twoFields 26 0x62#8 rfl rfl fun _ _ => rfl)
      (fun _ _ _ => rfl) cmpWith_borrowsInverted,
    registerForm_of_op andWith (encodes_twoFields 9 0x44#8 rfl rfl fun _ _ => rfl)
      (fun _ _ _ => rfl) fun x v s => andWith_keeps x v s.dropLatch,
    immediateForm_of_op andWith (encodes_twoFields 10 0x64#8 rfl rfl fun _ _ => rfl)
      (fun _ _ _ => rfl) andWith_keeps,
    registerForm_of_op orWith (encodes_twoFields 11 0x54#8 rfl rfl fun _ _ => rfl)
      (fun _ _ _ => rfl) fun x v s => orWith_keeps x v s.dropLatch,
    immediateForm_of_op orWith (encodes_twoFields 12 0x74#8 rfl rfl fun _ _ => rfl)
      (fun _ _ _ => rfl) orWith_keeps,
    registerForm_of_op xorWith (encodes_twoFields 13 0x4C#8 rfl rfl fun _ _ => rfl)
      (fun _ _ _ => rfl) fun x v s => xorWith_keeps x v s.dropLatch,
    immediateForm_of_op xorWith (encodes_twoFields 14 0x6C#8 rfl rfl fun _ _ => rfl)
      (fun _ _ _ => rfl) xorWith_keeps,
    registerForm_of_op testWith (encodes_twoFields 27 0x52#8 rfl rfl fun _ _ => rfl)
      (fun _ _ _ => rfl) fun x v s => testWith_keeps x v s.dropLatch,
    immediateForm_of_op testWith (encodes_twoFields 28 0x72#8 rfl rfl fun _ _ => rfl)
      (fun _ _ _ => rfl) testWith_keeps⟩

/-- Settles O27: `cmp` and `test` write the flags of a result they drop, and `load` copies. -/
theorem compareTestAndCopy : Obligations.CompareTestAndCopy :=
  ⟨registerForm_of_op cmpWith (encodes_twoFields 25 0x42#8 rfl rfl fun _ _ => rfl)
      (fun _ _ _ => rfl) fun x v s => cmpWith_borrows x v s.dropLatch,
    immediateForm_of_op cmpWith (encodes_twoFields 26 0x62#8 rfl rfl fun _ _ => rfl)
      (fun _ _ _ => rfl) cmpWith_borrows,
    registerForm_of_op testWith (encodes_twoFields 27 0x52#8 rfl rfl fun _ _ => rfl)
      (fun _ _ _ => rfl) fun x v s => testWith_clears x v s.dropLatch,
    immediateForm_of_op testWith (encodes_twoFields 28 0x72#8 rfl rfl fun _ _ => rfl)
      (fun _ _ _ => rfl) testWith_clears,
    registerForm_of_op loadWith (encodes_twoFields 29 0x4A#8 rfl rfl fun _ _ => rfl)
      (fun _ _ _ => rfl) fun x v s _ => loadWith_loads x v s.dropLatch⟩

/-- Settles O31: a rotation is a shift in which the bit that enters is the carry, or the bit that leaves. -/
theorem rotates : Obligations.Rotates :=
  ⟨oneRegisterForm_of_op
      (fun x s => shiftLeftWith x (if s.cfg.rotateThroughCarry then s.msr.c else (s.reg x).getLsbD 15) s)
      (encodes_oneField 19 0x5C#8 4#4 rfl rfl fun _ => rfl)
      (fun _ _ => rfl) fun x s => shiftLeftWith_shifts x s.dropLatch _,
    oneRegisterForm_of_op
      (fun x s => shiftRightWith x (if s.cfg.rotateThroughCarry then s.msr.c else (s.reg x).getLsbD 0) s)
      (encodes_oneField 24 0x7C#8 4#4 rfl rfl fun _ => rfl)
      (fun _ _ => rfl) fun x s => shiftRightWith_shifts x s.dropLatch _⟩

/-- Settles O32: the forms write the halves of the exact product. -/
theorem multiply : Obligations.Multiply :=
  ⟨registerForm_of_op (fun x v s => multiplyTo (productUnsigned (s.reg x) v) s)
      (encodes_twoFields 31 0x46#8 rfl rfl fun _ _ => rfl)
      (fun _ _ _ => rfl) fun x v s _ => mulWith_writes x v s.dropLatch,
    immediateForm_of_op (fun x v s => multiplyTo (productUnsigned (s.reg x) v) s)
      (encodes_twoFields 32 0x66#8 rfl rfl fun _ _ => rfl)
      (fun _ _ _ => rfl) fun x v s _ => mulWith_writes x v s,
    registerForm_of_op (fun x v s => multiplyTo (productSigned (s.reg x) v) s)
      (encodes_twoFields 33 0x56#8 rfl rfl fun _ _ => rfl)
      (fun _ _ _ => rfl) fun x v s _ => mulsWith_writes x v s.dropLatch,
    immediateForm_of_op (fun x v s => multiplyTo (productSigned (s.reg x) v) s)
      (encodes_twoFields 34 0x76#8 rfl rfl fun _ _ => rfl)
      (fun _ _ _ => rfl) fun x v s _ => mulsWith_writes x v s⟩

/-- Settles O33: past the check of the divisor the forms write the quotient of `re:rf`. -/
theorem divide : Obligations.Divide :=
  ⟨registerForm_of_op divWith (encodes_twoFields 35 0x4E#8 rfl rfl fun _ _ => rfl)
      (fun _ _ _ => rfl) fun x v s => divWith_writes x v s.dropLatch,
    immediateForm_of_op divWith (encodes_twoFields 36 0x6E#8 rfl rfl fun _ _ => rfl)
      (fun _ _ _ => rfl) divWith_writes,
    registerForm_of_op divsWith (encodes_twoFields 37 0x5E#8 rfl rfl fun _ _ => rfl)
      (fun _ _ _ => rfl) fun x v s => divsWith_writes x v s.dropLatch,
    immediateForm_of_op divsWith (encodes_twoFields 38 0x7E#8 rfl rfl fun _ _ => rfl)
      (fun _ _ _ => rfl) divsWith_writes⟩

/-- Settles O34: the divisor and the index register are checked before anything else is done. -/
theorem operandsThatTrap : Obligations.OperandsThatTrap := by
  refine ⟨fun x y s hfree hzero => ?register, fun x b s hzero => ?immediate, fun x y b s ear hfree hodd hear => ?odd⟩
  case register =>
    have hdiv : exec (.divRR x y) s = unprefixed s fun u => divWith x (u.reg y) u := rfl
    have hdivs : exec (.divsRR x y) s = unprefixed s fun u => divsWith x (u.reg y) u := rfl
    rw [hdiv, hdivs, unprefixed_free _ hfree, unprefixed_free _ hfree, dropLatch_reg, hzero]
    exact ⟨divWith_zero_traps x s.dropLatch, divsWith_zero_traps x s.dropLatch⟩
  case immediate =>
    have hdiv : exec (.divRI x b) s = divWith x (s.aluImm b) s := rfl
    have hdivs : exec (.divsRI x b) s = divsWith x (s.aluImm b) s := rfl
    rw [hdiv, hdivs, aluImm_eq_ofNat_immediate, hzero]
    exact ⟨divWith_zero_traps x s, divsWith_zero_traps x s⟩
  case odd =>
    have hload : exec (.ldwIdx x y b) s =
      unprefixed s fun u => aligned (u.indexedWord y b) u fun u => ldwFrom x (u.indexedWord y b) u := rfl
    have hstore : exec (.stwIdx x y b) s =
      unprefixed s fun u => aligned (u.indexedWord y b) u fun u => stwTo x (u.indexedWord y b) u := rfl
    have haddr : ear = (s.indexedWord y b).setWidth 32 := by
      apply BitVec.eq_of_toNat_eq
      rw [indexedWord_eq_ofNat, hear, BitVec.toNat_setWidth, BitVec.toNat_ofNat]
      omega
    rw [hload, hstore, unprefixed_free _ hfree, unprefixed_free _ hfree,
      aligned_indexedWord_of_odd s.dropLatch y b _ hodd, aligned_indexedWord_of_odd s.dropLatch y b _ hodd, haddr]
    exact ⟨raise_traps (.unaligned (s.indexedWord y b)) s.dropLatch,
      raise_traps (.unaligned (s.indexedWord y b)) s.dropLatch⟩

end Sys2Proof.Machine
end

section
/-! PROOFS. The barrel shifter and the compare of the FPU (spec/42_alu_barrel_shift.md, spec/43_alu_float.md). -/

namespace Sys2Proof.Machine

/-- An instruction of an optional unit that is there, with no `imm` in the way, runs on the state without the latch. -/
theorem needsUnit_unprefixed {present : Bool} {s : State} (k : State → Result) (hunit : present = true)
    (hfree : s.prefixFree) : (needsUnit present s fun u => unprefixed u k) = k s.dropLatch := by
  rw [needsUnit_present s _ hunit, unprefixed_free k hfree]

/-- A word shifted right is zero when every bit of it has left. -/
theorem isZero_ofNat_shifted (a : Word) (places : Nat) :
    isZero (BitVec.ofNat 16 (a.toNat / 2 ^ places)) = decide (a.toNat < 2 ^ places) := by
  have hlt : a.toNat / 2 ^ places < 2 ^ 16 := lt_of_le_of_lt (Nat.div_le_self _ _) a.isLt
  rw [isZero_ofNat, Nat.mod_eq_of_lt hlt, decide_eq_decide, Nat.div_eq_zero_iff_lt (Nat.two_pow_pos places)]

/-- Settles O35: each form puts its shifted word and the last bit shifted out. -/
theorem barrelShifts : Obligations.BarrelShifts := by
  intro x b
  refine ⟨⟨encodes_twoFields 39 0x41#8 rfl rfl (fun _ _ => rfl) x b,
    encodes_twoFields 40 0x61#8 rfl rfl (fun _ _ => rfl) x b⟩, fun s hunit hfree => ⟨?left, ?right⟩⟩
  case left =>
    have hexec : exec (.bsl x b) s = needsUnit s.cfg.hasBarrel s fun u => unprefixed u fun u =>
      complete (u.putResult x (barrelLeft (u.reg x) b).1 (barrelLeft (u.reg x) b).2) := rfl
    rw [hexec, needsUnit_unprefixed _ hunit hfree, ← isZero_ofNat]
    exact complete_putResult x _ s.dropLatch _
  case right =>
    have hexec : exec (.bsr x b) s = needsUnit s.cfg.hasBarrel s fun u => unprefixed u fun u =>
      complete (u.putResult x (barrelRight (u.reg x) b).1 (barrelRight (u.reg x) b).2) := rfl
    rw [hexec, needsUnit_unprefixed _ hunit hfree, ← isZero_ofNat_shifted]
    exact complete_putResult x _ s.dropLatch _

/-- Settles O38: `fcmp` writes the two flags of the configuration function. -/
theorem floatCompare : Obligations.FloatCompare :=
  floatForm_of_op (fun u w s => complete (s.setFlags (s.fpCmp (s.fpr u) w).1 (s.fpCmp (s.fpr u) w).2))
    (encodes_twoFpFields 45 0x4B0#12 rfl rfl fun _ _ => rfl) (fun _ _ _ => rfl) fun _ _ s =>
      ⟨_, complete_eq _, rfl, rfl, fun _ => rfl, ⟨fun _ => rfl, rfl⟩, keepsSystem_of_flags s s.regs _ _ _, rfl, rfl⟩

end Sys2Proof.Machine
end

section
/-! PROOFS. The default numerics on integers of at most 24 bits (log 10): such an integer has a binary32 word of its own,
and its integer part is itself (spec/43_alu_float.md R206). -/

namespace Sys2Proof.Machine

/-- The fields of a binary32 word read back. -/
theorem fpDecode_fpWord (negative : Bool) {exponent fraction : Nat} (hexp : exponent < 255) (hfrac : fraction < 2 ^ 23) :
    fpDecode (fpWord negative exponent fraction) =
      if exponent = 0 then .finite negative fraction (-149)
      else .finite negative (2 ^ 23 + fraction) ((exponent : Int) - 150) := by
  have hsign : (fpWord negative exponent fraction).getLsbD 31 = negative := by
    simp only [fpWord, bit, BitVec.getLsbD_append]
    simp
  have hexponent : ((fpWord negative exponent fraction).extractLsb' 23 8).toNat = exponent := by
    rw [fpWord, extractLsb'_middle_field, BitVec.toNat_ofNat, Nat.mod_eq_of_lt (by omega)]
  have hfraction : ((fpWord negative exponent fraction).extractLsb' 0 23).toNat = fraction := by
    rw [fpWord, BitVec.extractLsb'_append_eq_right, BitVec.toNat_ofNat, Nat.mod_eq_of_lt hfrac]
  simp only [fpDecode, hsign, hexponent, hfraction]
  rw [if_neg (by omega)]

/-- A number below 2^24 is rounded to itself: its leading bit is moved to bit 23. -/
theorem fpRound_of_lt (negative : Bool) {m : Nat} (hpos : m ≠ 0) (hm : m < 2 ^ 24) :
    m * 2 ^ (23 - m.log2) < 2 ^ 24 ∧ 2 ^ 23 ≤ m * 2 ^ (23 - m.log2) ∧ m.log2 ≤ 23 ∧
      fpRound negative m 0 = fpWord negative (m.log2 + 127) (m * 2 ^ (23 - m.log2) - 2 ^ 23) := by
  have hlog : m.log2 ≤ 23 := Nat.lt_succ_iff.1 ((Nat.log2_lt hpos).2 hm)
  have hscale (j : Nat) (hj : j = m.log2 + (23 - m.log2)) : 2 ^ j = 2 ^ m.log2 * 2 ^ (23 - m.log2) := by
    rw [hj, Nat.pow_add]
  have hlow : 2 ^ 23 ≤ m * 2 ^ (23 - m.log2) := by
    rw [hscale 23 (by omega)]
    exact Nat.mul_le_mul_right _ (Nat.log2_self_le hpos)
  have hhigh : m * 2 ^ (23 - m.log2) < 2 ^ 24 := by
    have h24 : 2 ^ 24 = 2 ^ (m.log2 + 1) * 2 ^ (23 - m.log2) := by
      rw [← Nat.pow_add]
      congr 1
      omega
    rw [h24]
    exact Nat.mul_lt_mul_of_pos_right Nat.lt_log2_self (Nat.two_pow_pos _)
  refine ⟨hhigh, hlow, hlog, ?_⟩
  have hquantum : max ((m.log2 : Int) + 0 - 23) (-149) = (m.log2 : Int) - 23 := by omega
  have hshift : (-((m.log2 : Int) - 23 - 0)).toNat = 23 - m.log2 := by omega
  have hround : roundShift m ((m.log2 : Int) - 23 - 0) = m * 2 ^ (23 - m.log2) := by
    rw [roundShift, if_pos (by omega), hshift]
  have hexp : ((m.log2 : Int) - 23 + 150).toNat = m.log2 + 127 := by omega
  simp only [fpRound, if_neg hpos, hquantum, hround, if_neg (not_lt.2 hlow), if_neg hhigh.ne, hexp]
  rw [if_neg (by omega)]

/-- The word of an integer of at most 24 bits decodes to a value with that integer part. -/
theorem fpDecode_fpRound (negative : Bool) {m : Nat} (hm : m ≤ 2 ^ 24) :
    ∃ n e, fpDecode (fpRound negative m 0) = .finite negative n e ∧ truncated n e = m := by
  obtain hlt | rfl := Nat.lt_or_eq_of_le hm
  · by_cases hpos : m = 0
    · refine ⟨0, -149, ?_, by rw [hpos]; rfl⟩
      rw [fpRound, if_pos hpos, fpDecode_fpWord negative (by decide) (by decide), if_pos rfl]
    · obtain ⟨hhigh, hlow, hlog, hround⟩ := fpRound_of_lt negative hpos hlt
      refine ⟨m * 2 ^ (23 - m.log2), (m.log2 : Int) - 23, ?_, ?_⟩
      · have hexp : ((m.log2 + 127 : Nat) : Int) - 150 = (m.log2 : Int) - 23 := by omega
        rw [hround, fpDecode_fpWord negative (by omega) (by omega), if_neg (by omega), Nat.add_sub_cancel' hlow, hexp]
      · unfold truncated
        split
        next hnonneg =>
          have hplaces : 23 - m.log2 = 0 := by omega
          have hshift : ((m.log2 : Int) - 23).toNat = 0 := by omega
          rw [hplaces, hshift, Nat.pow_zero, Nat.mul_one, Nat.mul_one]
        next =>
          have hshift : (-((m.log2 : Int) - 23)).toNat = 23 - m.log2 := by omega
          rw [hshift, Nat.mul_div_cancel _ (Nat.two_pow_pos _)]
  · cases negative
    · exact ⟨2 ^ 23, 1, by decide +kernel, by decide +kernel⟩
    · exact ⟨2 ^ 23, 1, by decide +kernel, by decide +kernel⟩

/-- The sign and the magnitude of an integer make it again. -/
theorem signed_natAbs (i : Int) : signed (decide (i < 0)) i.natAbs = i := by
  unfold signed
  split
  next h => simp only [decide_eq_true_eq] at h; omega
  next h => simp only [decide_eq_true_eq] at h; omega

theorem ieeeToInt_intToIeee {a : Long} (ha : a.toInt.natAbs ≤ 2 ^ 24) : ieeeToInt (intToIeee a) = a := by
  obtain ⟨n, e, hdecode, htruncated⟩ := fpDecode_fpRound (decide (a.toInt < 0)) ha
  rw [ieeeToInt, intToIeee, hdecode]
  simp only [htruncated, signed_natAbs]
  rw [if_pos (by omega), BitVec.ofInt_toInt]

/-- Settles O39: both conversions write `FPu` by the default numerics, which give the integer back. -/
theorem integerFloatRoundTrip : Obligations.IntegerFloatRoundTrip := by
  intro u s t hfpu hieee hfree hsmall hnext
  have hfflt (r : State) : exec (.fflt u) r = floatUnit r fun r => floatTo u (r.intToFp (r.fpr u)) r := rfl
  have hfint (r : State) : exec (.fint u) r = floatUnit r fun r => floatTo u (r.fpToInt (r.fpr u)) r := rfl
  have ht : t = (((s.dropLatch.setFpr u (s.intToFp (s.fpr u))).freeFlags).dropLatch).setPc s.npc := by
    rw [hfflt, floatUnit_present _ hfpu hfree] at hnext
    exact complete_next hnext
  have htfpr : t.fpr u = intToIeee (s.fpr u) := by
    have hintToFp : s.intToFp (s.fpr u) = intToIeee (s.fpr u) := by rw [State.intToFp, hieee]
    rw [ht, ← hintToFp]
    exact fpr_setFpr_same s.dropLatch u _
  have htcfg : t.cfg = s.cfg := by rw [ht]; rfl
  have htlatch : t.immv = false := by rw [ht]; rfl
  obtain ⟨r, hr, hwrites, _⟩ := floatTo_writes u (t.dropLatch.fpToInt (t.dropLatch.fpr u)) t.dropLatch
  refine ⟨r, ?_, ?_⟩
  · rw [hfint, floatUnit_present _ (htcfg ▸ hfpu) (.inl htlatch), hr]
  · have hfpToInt : t.dropLatch.fpToInt (t.dropLatch.fpr u) = ieeeToInt (t.fpr u) := by
      rw [State.fpToInt, dropLatch_cfg, htcfg, hieee, dropLatch_fpr]
    rw [hwrites, hfpToInt, htfpr, ieeeToInt_intToIeee hsmall]

end Sys2Proof.Machine
end

section
/-! PROOFS. The rest of class FC: the other settings of a relative target, `svc`, and the returns from a trap
(spec/44_flow_control.md R222, R244, R246, R247). -/

namespace Sys2Proof.Machine

/-- Bit 0 of an address cleared, as a number (log 18). -/
theorem and_even_eq_ofNat (a : Addr) : a &&& 0xFFFFFE#24 = BitVec.ofNat 24 (2 * (a.toNat / 2)) := by
  have hand : a &&& 0xFFFFFE#24 = a.extractLsb' 1 23 ++ 0#1 := by
    refine BitVec.eq_of_getLsbD_eq fun i hi => ?_
    simp only [BitVec.getLsbD_and, BitVec.getLsbD_append, BitVec.getLsbD_extractLsb']
    interval_cases i <;> simp
  apply BitVec.eq_of_toNat_eq
  rw [hand, toNat_append_eq_add, BitVec.extractLsb'_toNat, Nat.shiftRight_eq_div_pow, BitVec.toNat_ofNat,
    BitVec.toNat_ofNat]
  omega

/-- With counts of one byte the relative target is the signed count of bytes from its base, made even (log 18). -/
theorem relTarget_eq_bytesAway (s : State) (c : BitVec 9) (hunit : s.cfg.relUnit = .one) :
    s.relTarget c = s.bytesAway c := by
  unfold State.relTarget State.bytesAway
  rw [hunit, relBase_eq_countedFrom]
  exact and_even_eq_ofNat _

/-- Settles O44: the ten forms under each of the other settings. -/
theorem otherRelativeSettings : Obligations.OtherRelativeSettings :=
  ⟨relativeForms_of_target fun s c ⟨hunit, _⟩ => relTarget_eq_wordsAway s c hunit,
    relativeForms_of_target relTarget_eq_bytesAway⟩

section
variable {s : State}

/-- `svc` with no `imm` in the way; spec/44_flow_control.md R244. -/
theorem exec_svc (hfree : s.prefixFree) :
    exec .svc s = if s.msr.eip then .refused .nestedTrap else .next s.dropLatch.enterSvc := by
  have hexec : exec .svc s = unprefixed s fun u => if u.msr.eip then .refused .nestedTrap else .next u.enterSvc := rfl
  rw [hexec, unprefixed_free _ hfree, dropLatch_msr]

/-- `reti` with no `imm` in the way, in kernel mode; spec/44_flow_control.md R246. -/
theorem exec_reti (hfree : s.prefixFree) (hum : s.msr.um = false) :
    exec .reti s = .next s.dropLatch.leaveInterrupt := by
  have hexec : exec .reti s = unprefixed s fun u => kernelOnly u fun u => .next u.leaveInterrupt := rfl
  rw [hexec, unprefixed_free _ hfree, kernelOnly, dropLatch_msr, hum, if_neg Bool.false_ne_true]

/-- `rete` in the same way; spec/44_flow_control.md R247. -/
theorem exec_rete (hfree : s.prefixFree) (hum : s.msr.um = false) :
    exec .rete s = .next s.dropLatch.leaveException := by
  have hexec : exec .rete s = unprefixed s fun u => kernelOnly u fun u => .next u.leaveException := rfl
  rw [hexec, unprefixed_free _ hfree, kernelOnly, dropLatch_msr, hum, if_neg Bool.false_ne_true]

/-- A link register that holds an even address gives it back; spec/10_state.md R35. -/
theorem linkAddr_of_even {a : Addr} (heven : EvenAddr a) : linkAddr (a.setWidth 32) = a := by
  have hmod : a.toNat % 2 = 0 := by
    have hbit : a.toNat.testBit 0 = false := heven
    rw [Nat.testBit_zero, decide_eq_false_iff_not] at hbit
    omega
  apply BitVec.eq_of_toNat_eq
  rw [linkAddr_eq_ofNat, BitVec.toNat_ofNat, BitVec.toNat_setWidth]
  omega

end

/-- Settles O45: the entry through the SVC vector, or the refusal. -/
theorem supervisoryCall : Obligations.SupervisoryCall := by
  refine ⟨encodes_of_encode rfl rfl, fun s hfree => ?_⟩
  rw [exec_svc hfree]
  split
  next => rfl
  next => exact ⟨_, rfl, enterSvc_enters s.dropLatch, rfl, rfl, rfl, rfl, rfl, rfl, rfl, rfl⟩

/-- Settles O47: both returns restore the modes and go to the address in their link register. -/
theorem returnsFromTraps : Obligations.ReturnsFromTraps := by
  refine ⟨encodes_of_encode rfl rfl, encodes_of_encode rfl rfl, fun s hfree hum => ?_⟩
  rw [exec_reti hfree hum, exec_rete hfree hum, ← linkAddr_eq_ofNat, ← linkAddr_eq_ofNat]
  exact ⟨⟨_, rfl, rfl, rfl, rfl, fun _ => rfl, ⟨fun _ => rfl, rfl⟩, ⟨rfl, ⟨rfl, rfl, rfl⟩, rfl, rfl, rfl⟩, fun _ => rfl,
      fun _ => rfl, ⟨rfl, fun _ => rfl⟩, rfl, rfl, rfl⟩,
    ⟨_, rfl, rfl, rfl, rfl, fun _ => rfl, ⟨fun _ => rfl, rfl⟩, ⟨rfl, ⟨rfl, rfl, rfl⟩, rfl, rfl, rfl⟩, fun _ => rfl,
      fun _ => rfl, ⟨rfl, fun _ => rfl⟩, rfl, rfl, rfl⟩⟩

/-- Settles O48: `svc` leaves kernel mode and no latch, so `rete` runs; the link is even. -/
theorem svcThenReteReturns : Obligations.SvcThenReteReturns := by
  intro s t hpc hlatch hsvc
  rw [exec_svc (.inl hlatch)] at hsvc
  split at hsvc
  next => cases hsvc
  next =>
    cases hsvc
    have hlink : linkAddr (s.npc.setWidth 32) = s.pc + 2#24 := linkAddr_of_even (npc_even hpc)
    exact ⟨_, exec_rete (.inl rfl) rfl, hlink, rfl, rfl, rfl, rfl, rfl, rfl, rfl, rfl, ⟨rfl, rfl⟩, fun _ => rfl,
      fun _ => rfl, rfl⟩

/-- The registers user mode may not name are those the statements list; spec/60_exceptions.md R321. -/
theorem kernelOnly_sprOf_iff (y : BitVec 4) : (sprOf y).kernelOnly = true ↔ privilegedSpr y := by
  revert y
  decide

theorem kernelOnly_of_user {s : State} (k : State → Result) (hum : s.msr.um = true) :
    kernelOnly s k = .refused .privileged := if_pos hum

/-- A move of a privileged register is refused in user mode; spec/60_exceptions.md R321. -/
theorem sprMove_of_user {s : State} {y : BitVec 4} (k : State → Result) (hum : s.msr.um = true) (hy : privilegedSpr y) :
    sprMove (sprOf y) s k = .refused .privileged := by
  rw [sprMove, hum, (kernelOnly_sprOf_iff y).2 hy]
  rfl

/-- Settles O49: past the checks of the unit and the latch, that of the mode refuses. -/
theorem privilegedRefused : Obligations.PrivilegedRefused := by
  intro s hfree hum
  have hprivileged (k : State → Result) : unprefixed s (fun u => kernelOnly u k) = .refused .privileged := by
    rw [unprefixed_free _ hfree]
    exact kernelOnly_of_user k hum
  refine ⟨fun x y hy => ?spr, fun hmmu x => ?pid, fun hmmu x d => ?tlb, hprivileged _, hprivileged _⟩
  case spr =>
    have hmove (k : State → State → Result) :
        unprefixed s (fun u => sprMove (sprOf y) u (k u)) = .refused .privileged := by
      rw [unprefixed_free _ hfree]
      exact sprMove_of_user (s := s.dropLatch) _ hum hy
    exact ⟨hmove fun _ u => complete (u.setPair x (u.readSpr (sprOf y))),
      hmove fun _ u => complete (u.writeSpr (sprOf y) (u.pair x))⟩
  case pid =>
    have hexec : exec (.ldpid x) s = needsUnit s.cfg.hasMmu s fun u => unprefixed u fun u => kernelOnly u fun u =>
      complete (u.setPid ((u.reg x).extractLsb' 0 6)) := rfl
    rw [hexec, needsUnit_present s _ hmmu]
    exact hprivileged _
  case tlb =>
    have hexec : exec (.ldtlb x d) s = needsUnit s.cfg.hasMmu s fun u => unprefixed u fun u => kernelOnly u fun u =>
      complete (u.setTlb d (u.pair x)) := rfl
    rw [hexec, needsUnit_present s _ hmmu]
    exact hprivileged _

end Sys2Proof.Machine
end

section
/-! PROOFS. The loads and stores of class IO by their operations: what each does where there is memory, where the platform
admits nothing, and where there is a device (spec/45_io_memory.md R263 to R270, spec/20_memory.md R80). -/

namespace Sys2Proof.Machine

/-! ### The addresses and bytes as numbers -/

/-- The absolute byte address as a number; spec/30_encoding.md R111. -/
theorem absByte_eq_ofNat_byteTarget (s : State) (e : BitVec 10) : s.absByte e = BitVec.ofNat 24 (s.byteTarget e) := by
  unfold State.absByte State.byteTarget
  split
  · apply BitVec.eq_of_toNat_eq
    have he := e.isLt
    have ha := s.imma.isLt
    rw [toNat_append_eq_add, BitVec.toNat_ofNat]
    omega
  · rw [BitVec.ofNat_toNat]

/-- The indexed byte address as a number; spec/45_io_memory.md R262. -/
theorem indexedByte_eq_ofNat (s : State) (y : BitVec 2) (b : BitVec 4) :
    s.indexedByte y b = BitVec.ofNat 24 ((s.index y).toNat + b.toNat) := by
  apply BitVec.eq_of_toNat_eq
  simp only [State.indexedByte, BitVec.toNat_setWidth, BitVec.toNat_add, BitVec.toNat_ofNat]
  omega

theorem firstByte_eq_ite (e : Endian) (v : Word) :
    firstByte e v = if e = .big then v.extractLsb' 8 8 else v.extractLsb' 0 8 := by
  cases e <;> rfl

theorem secondByte_eq_ite (e : Endian) (v : Word) :
    secondByte e v = if e = .big then v.extractLsb' 0 8 else v.extractLsb' 8 8 := by
  cases e <;> rfl

/-- The value `ldb` gives `rx`, as the statements write it; spec/45_io_memory.md R267. -/
theorem loadedByte_eq_withLowByte (s : State) (x : RegNum) (v : Byte) : s.loadedByte x v = s.withLowByte x v := by
  unfold State.loadedByte State.withLowByte
  cases s.cfg.ldbHigh <;> rfl

/-- The low byte of a word, as the value a device is sent (log 6). -/
theorem lowByte_setWidth (v : Word) : (v.extractLsb' 0 8).setWidth 16 = BitVec.ofNat 16 (v.toNat % 256) := by
  apply BitVec.eq_of_toNat_eq
  rw [BitVec.toNat_setWidth, BitVec.extractLsb'_toNat, BitVec.toNat_ofNat, Nat.shiftRight_zero]

/-! ### What each operation does -/

section
variable {s : State} (x : RegNum) {a : Addr}

/-- A store's end: everything but memory and its marks, and what the platform was told, is as before. -/
theorem storesOnly_of_memory (mem : Memory) (marks : List Nat) :
    StoresOnly s (({ s with mem := mem, stored := marks }).dropLatch.setPc s.npc) :=
  ⟨fun _ => rfl, ⟨rfl, rfl⟩, keepsSystem_of_flags s s.regs s.msr.z s.msr.c s.npc, rfl, rfl⟩

theorem ldwFrom_not_admitted (hnone : s.regionKind .readWord a = none) :
    ldwFrom x a s = .refused (.notAdmitted .readWord a) := by
  rw [ldwFrom, loadWord_of_not_admitted hnone]

theorem ldwFrom_device (hdev : s.regionKind .readWord a = some .device) :
    ∃ t, ldwFrom x a s = .next t ∧
      LoadsReg x (Config.deviceWord s.deviceLog .readWord a) (s.tell (.read .readWord a)) t := by
  rw [ldwFrom, loadWord_of_device hdev]
  exact loadWith_loads x _ (s.tell (.read .readWord a))

theorem ldbFrom_loads (hmem : s.isMemory .readByte a) :
    ∃ t, ldbFrom x a s = .next t ∧ LoadsReg x (s.withLowByte x (s.byteAt a)) s t := by
  have hread : s.loadByte a = .ok (s.byteAt a, s) := by rw [State.loadByte, hmem]
  rw [ldbFrom, hread, ← loadedByte_eq_withLowByte]
  exact loadWith_loads x _ s

theorem ldbFrom_not_admitted (hnone : s.regionKind .readByte a = none) :
    ldbFrom x a s = .refused (.notAdmitted .readByte a) := by
  rw [ldbFrom, State.loadByte, hnone]

theorem ldbFrom_device (hdev : s.regionKind .readByte a = some .device) :
    ∃ t, ldbFrom x a s = .next t ∧
      LoadsReg x (s.withLowByte x (Config.deviceByte s.deviceLog a)) (s.tell (.read .readByte a)) t := by
  rw [ldbFrom, State.loadByte, hdev, ← loadedByte_eq_withLowByte]
  exact loadWith_loads x _ (s.tell (.read .readByte a))

/-- A word store where there is memory is a write of its two bytes. -/
theorem stwTo_of_isMemory (hmem : s.isMemory .writeWord a) : stwTo x a s = complete (s.putWord a (s.reg x)) := by
  rw [stwTo, State.storeWord, hmem]

theorem stwTo_stores (hmem : s.isMemory .writeWord a) :
    ∃ t, stwTo x a s = .next t ∧ HoldsWord a (s.reg x) s t ∧ StoresOnly s t := by
  have hbyte (b : Addr) : (((s.putWord a (s.reg x)).dropLatch).setPc (s.putWord a (s.reg x)).npc).byteAt b =
      (s.putWord a (s.reg x)).byteAt b := by rw [setPc_byteAt, dropLatch_byteAt]
  refine ⟨_, stwTo_of_isMemory x hmem, ⟨?first, ?second, fun b hfirst hsecond => ?others, fun n => ?marks⟩, ?frame⟩
  case first => rw [hbyte, byteAt_putWord, if_neg (addr_ne_succ a), if_pos rfl, firstByte_eq_ite]
  case second => rw [hbyte, byteAt_putWord, if_pos rfl, secondByte_eq_ite]
  case others => rw [hbyte, byteAt_putWord, if_neg hsecond, if_neg hfirst]
  case marks =>
    rw [setPc_stored, dropLatch_stored, putWord_stored, mem_markAddr, mem_markAddr]
    exact or_left_comm
  case frame =>
    rw [putWord_eq]
    exact storesOnly_of_memory (s.putWord a (s.reg x)).mem (s.putWord a (s.reg x)).stored

theorem stwTo_not_admitted (hnone : s.regionKind .writeWord a = none) :
    stwTo x a s = .refused (.notAdmitted .writeWord a) := by
  rw [stwTo, State.storeWord, hnone]

theorem stwTo_device (hdev : s.regionKind .writeWord a = some .device) :
    ∃ t, stwTo x a s = .next t ∧ (∀ b, t.byteAt b = s.byteAt b) ∧
      (∀ n, n ∈ t.stored ↔ n = a.toNat ∨ (AccessKind.writeWord.width = 2 ∧ n = (a + 1#24).toNat) ∨ n ∈ s.stored) ∧
      StoresOnly (s.tell (.write .writeWord a (s.reg x))) t := by
  have hsend : stwTo x a s = complete (s.sendWord a (s.reg x)) := by rw [stwTo, State.storeWord, hdev]
  refine ⟨_, hsend, fun _ => rfl, fun n => ?_,
    storesOnly_of_memory (s := s.tell (.write .writeWord a (s.reg x))) s.mem _⟩
  have hwidth : AccessKind.writeWord.width = 2 := rfl
  rw [setPc_stored, dropLatch_stored, State.sendWord, mem_markAddr, mem_markAddr, hwidth]
  tauto

theorem stbTo_stores (hmem : s.isMemory .writeByte a) :
    ∃ t, stbTo x a s = .next t ∧ HoldsByte a ((s.reg x).extractLsb' 0 8) s t ∧ StoresOnly s t := by
  have hput : stbTo x a s = complete (s.putByte a ((s.reg x).extractLsb' 0 8)) := by
    rw [stbTo, State.storeByte, hmem]
  refine ⟨_, hput, ⟨?same, fun b hb => ?others, fun n => ?marks⟩, ?frame⟩
  case same => rw [setPc_byteAt, dropLatch_byteAt, byteAt_putByte_same]
  case others => rw [setPc_byteAt, dropLatch_byteAt, byteAt_putByte_ne s _ hb]
  case marks => exact mem_markAddr
  case frame => exact storesOnly_of_memory (s.mem.write a.toNat ((s.reg x).extractLsb' 0 8)) (markAddr s.stored a.toNat)

theorem stbTo_not_admitted (hnone : s.regionKind .writeByte a = none) :
    stbTo x a s = .refused (.notAdmitted .writeByte a) := by
  rw [stbTo, State.storeByte, hnone]

theorem stbTo_device (hdev : s.regionKind .writeByte a = some .device) :
    ∃ t, stbTo x a s = .next t ∧ (∀ b, t.byteAt b = s.byteAt b) ∧
      (∀ n, n ∈ t.stored ↔ n = a.toNat ∨ (AccessKind.writeByte.width = 2 ∧ n = (a + 1#24).toNat) ∨ n ∈ s.stored) ∧
      StoresOnly (s.tell (.write .writeByte a (BitVec.ofNat 16 ((s.reg x).toNat % 256)))) t := by
  have hsend : stbTo x a s = complete (s.sendByte a ((s.reg x).extractLsb' 0 8)) := by
    rw [stbTo, State.storeByte, hdev]
  have hwidth : ¬ AccessKind.writeByte.width = 2 := by decide
  rw [← lowByte_setWidth]
  refine ⟨_, hsend, fun _ => rfl, fun n => ?_, storesOnly_of_memory (s := s.tell _) s.mem _⟩
  rw [setPc_stored, dropLatch_stored, State.sendByte, mem_markAddr]
  tauto

/-! ### The indexed forms, with no `imm` in the way -/

variable (y : BitVec 2) (b : BitVec 4) (hfree : s.prefixFree)
include hfree

/-- At an even address the indexed word forms pass the alignment check; spec/20_memory.md R74. -/
theorem exec_ldwIdx_of_even (heven : (s.index y).toNat % 2 = 0) :
    exec (.ldwIdx x y b) s = ldwFrom x (s.indexedWord y b) s.dropLatch := by
  have hexec : exec (.ldwIdx x y b) s =
    unprefixed s fun u => aligned (u.indexedWord y b) u fun u => ldwFrom x (u.indexedWord y b) u := rfl
  rw [hexec, unprefixed_free _ hfree, aligned_indexedWord_of_even s.dropLatch y b _ heven]
  rfl

theorem exec_stwIdx_of_even (heven : (s.index y).toNat % 2 = 0) :
    exec (.stwIdx x y b) s = stwTo x (s.indexedWord y b) s.dropLatch := by
  have hexec : exec (.stwIdx x y b) s =
    unprefixed s fun u => aligned (u.indexedWord y b) u fun u => stwTo x (u.indexedWord y b) u := rfl
  rw [hexec, unprefixed_free _ hfree, aligned_indexedWord_of_even s.dropLatch y b _ heven]
  rfl

theorem exec_stwIdx_of_odd (hodd : (s.index y).toNat % 2 = 1) :
    exec (.stwIdx x y b) s = raise (.unaligned (s.indexedWord y b)) s.dropLatch := by
  have hexec : exec (.stwIdx x y b) s =
    unprefixed s fun u => aligned (u.indexedWord y b) u fun u => stwTo x (u.indexedWord y b) u := rfl
  rw [hexec, unprefixed_free _ hfree, aligned_indexedWord_of_odd s.dropLatch y b _ hodd]
  rfl

theorem exec_ldbIdx : exec (.ldbIdx x y b) s = ldbFrom x (s.indexedByte y b) s.dropLatch := by
  have hexec : exec (.ldbIdx x y b) s = unprefixed s fun u => ldbFrom x (u.indexedByte y b) u := rfl
  rw [hexec, unprefixed_free _ hfree]
  rfl

theorem exec_stbIdx : exec (.stbIdx x y b) s = stbTo x (s.indexedByte y b) s.dropLatch := by
  have hexec : exec (.stbIdx x y b) s = unprefixed s fun u => stbTo x (u.indexedByte y b) u := rfl
  rw [hexec, unprefixed_free _ hfree]
  rfl

end

end Sys2Proof.Machine
end

section
/-! PROOFS. The words of the absolute byte forms (spec/30_encoding.md R105). -/

namespace Sys2Proof.Machine

/-- The word of an absolute byte form over a base, as the concatenation the encoder writes. -/
theorem byteFormWord_append (high : BitVec 5) (x : BitVec 1) (e : BitVec 10) :
    byteFormWord (high ++ 0#1 ++ 0#10) (x.setWidth 4) e = high ++ x ++ e := by
  unfold byteFormWord
  ext i hi
  simp only [BitVec.getElem_or, BitVec.getElem_append, BitVec.getElem_shiftLeft, BitVec.getElem_setWidth]
  grind

/-- A form that the encoder writes as five fixed bits, a register bit and a byte address encodes `r0` and `r1`. -/
theorem encodes_absByteFields (high : BitVec 5) {base : Word} {form : RegNum → BitVec 10 → Instr} {x : RegNum}
    (hbase : base = high ++ 0#1 ++ 0#10) (henc : ∀ x e, encode (form x e) = high ++ x.setWidth 1 ++ e) (e : BitVec 10)
    (hlow : isLowReg x = true) (hwf : (form x e).wf = true) : Encodes (byteFormWord base x e) (form x e) := by
  have hx : (x.setWidth 1).setWidth 4 = x := (isLowReg_iff x).1 hlow
  have hword : byteFormWord base x e = high ++ x.setWidth 1 ++ e := by
    rw [hbase, ← byteFormWord_append high (x.setWidth 1), hx]
  exact encodes_of_encode hwf ((henc x e).trans hword.symm)

end Sys2Proof.Machine
end

section
/-! PROOFS. The statements about the loads and stores (spec/45_io_memory.md). -/

namespace Sys2Proof.Machine

/-- Settles O51: both forms are `stwTo` of their address, the indexed one behind the alignment check. -/
theorem wordStores : Obligations.WordStores := by
  refine ⟨fun x c hlow => ⟨encodes_absWordFields 81 0b110100#6 rfl rfl (fun _ _ => rfl) c hlow, fun s =>
      ⟨absWord_eq_ofNat_wordTarget s c, fun hmem => stwTo_stores x hmem⟩⟩,
    fun x y b => ⟨encodes_indexedFields 82 0b110101#6 rfl rfl (fun _ _ _ => rfl) x y b, fun s hfree =>
      ⟨indexedWord_eq_ofNat s y b, ?_⟩⟩⟩
  split
  next heven =>
    intro hmem
    rw [exec_stwIdx_of_even x y b hfree heven]
    exact stwTo_stores (s := s.dropLatch) x hmem
  next hodd =>
    intro htrap
    rw [exec_stwIdx_of_odd x y b hfree (Nat.mod_two_ne_zero.1 hodd), raise_of_canTrap _ (s := s.dropLatch) htrap]
    exact ⟨_, rfl, enterException_enters (.unaligned (s.indexedWord y b)) s.dropLatch⟩

/-- Settles O52: both forms are `ldbFrom` of their address. -/
theorem byteLoads : Obligations.ByteLoads := by
  refine ⟨fun x e hlow => ⟨encodes_absByteFields 0b11100#5 rfl (fun _ _ => rfl) e hlow hlow, ?absolute⟩,
    fun x y b => ⟨encodes_indexedFields 85 0b111010#6 rfl rfl (fun _ _ _ => rfl) x y b, ?indexed⟩⟩
  case absolute =>
    rintro s ea rfl hmem
    have hexec : exec (.ldbAbs x e) s = ldbFrom x (s.absByte e) s := rfl
    rw [hexec, absByte_eq_ofNat_byteTarget]
    exact ldbFrom_loads x hmem
  case indexed =>
    rintro s ea hfree rfl hmem
    rw [exec_ldbIdx x y b hfree, indexedByte_eq_ofNat]
    exact ldbFrom_loads (s := s.dropLatch) x hmem

/-- Settles O53: both forms are `stbTo` of their address. -/
theorem byteStores : Obligations.ByteStores := by
  refine ⟨fun x e hlow => ⟨encodes_absByteFields 0b11110#5 rfl (fun _ _ => rfl) e hlow hlow, fun s =>
      ⟨absByte_eq_ofNat_byteTarget s e, fun hmem => stbTo_stores x hmem⟩⟩,
    fun x y b => ⟨encodes_indexedFields 87 0b111110#6 rfl rfl (fun _ _ _ => rfl) x y b, fun s hfree =>
      ⟨indexedByte_eq_ofNat s y b, fun hmem => ?_⟩⟩⟩
  rw [exec_stbIdx x y b hfree]
  exact stbTo_stores (s := s.dropLatch) x hmem

/-- Settles O54: each form hands its address to one of the four operations. -/
theorem platformDecidesAccess : Obligations.PlatformDecidesAccess := by
  refine ⟨fun x c s => ⟨⟨ldwFrom_not_admitted x, ldwFrom_device x⟩, ⟨stwTo_not_admitted x, stwTo_device x⟩⟩,
    fun x e s => ⟨⟨ldbFrom_not_admitted x, ldbFrom_device x⟩, ⟨stbTo_not_admitted x, stbTo_device x⟩⟩,
    fun x y b s hfree => ⟨fun heven => ⟨?loadWord, ?storeWord⟩, ?loadByte, ?storeByte⟩⟩
  case loadWord =>
    rw [LoadsPastMemory, exec_ldwIdx_of_even x y b hfree heven]
    exact ⟨ldwFrom_not_admitted (s := s.dropLatch) x, ldwFrom_device (s := s.dropLatch) x⟩
  case storeWord =>
    rw [StoresPastMemory, exec_stwIdx_of_even x y b hfree heven]
    exact ⟨stwTo_not_admitted (s := s.dropLatch) x, stwTo_device (s := s.dropLatch) x⟩
  case loadByte =>
    rw [LoadsPastMemory, exec_ldbIdx x y b hfree]
    exact ⟨ldbFrom_not_admitted (s := s.dropLatch) x, ldbFrom_device (s := s.dropLatch) x⟩
  case storeByte =>
    rw [StoresPastMemory, exec_stbIdx x y b hfree]
    exact ⟨stbTo_not_admitted (s := s.dropLatch) x, stbTo_device (s := s.dropLatch) x⟩

end Sys2Proof.Machine
end

section
/-! PROOFS. A word stored and loaded back, in a build whose platform is all memory (spec/20_memory.md sections 2 and
7). -/

namespace Sys2Proof.Machine

/-- A platform that is all memory admits every access within the address space; spec/10_state.md R42. -/
theorem isMemory_of_allMemory {s : State} {a : Addr} (k : AccessKind) (hplatform : s.cfg.platform = [.allMemory])
    (hfits : a.toNat + k.width ≤ 2 ^ 24) : s.isMemory k a := by
  have htakes : Region.allMemory.takes k a.toNat = true := by
    have hadmits : Region.allMemory.admits.contains k = true := by cases k <;> rfl
    have hend : a.toNat + k.width ≤ Region.allMemory.base + Region.allMemory.size := hfits
    have hbase : Region.allMemory.base ≤ a.toNat := Nat.zero_le _
    simp only [Region.takes, hadmits, hbase, hend, decide_true, Bool.and_self]
  simp only [State.isMemory, State.regionKind, hplatform, List.find?_cons, htakes]
  rfl

/-- The bytes of a word by the byte order of the build; spec/20_memory.md R72. -/
theorem bytes_eq_of_order {e : Endian} {v : Word} {first second : Byte}
    (hbig : e = .big → first.toNat = v.toNat / 256 ∧ second.toNat = v.toNat % 256)
    (hlittle : e = .little → first.toNat = v.toNat % 256 ∧ second.toNat = v.toNat / 256) :
    first = firstByte e v ∧ second = secondByte e v := by
  have hhigh : (v.extractLsb' 8 8).toNat = v.toNat / 256 := by
    rw [BitVec.extractLsb'_toNat, Nat.shiftRight_eq_div_pow]
    omega
  have hlow : (v.extractLsb' 0 8).toNat = v.toNat % 256 := by
    rw [BitVec.extractLsb'_toNat, Nat.shiftRight_zero]
  cases e with
  | big =>
    obtain ⟨hfirst, hsecond⟩ := hbig rfl
    exact ⟨BitVec.eq_of_toNat_eq (hfirst.trans hhigh.symm), BitVec.eq_of_toNat_eq (hsecond.trans hlow.symm)⟩
  | little =>
    obtain ⟨hfirst, hsecond⟩ := hlittle rfl
    exact ⟨BitVec.eq_of_toNat_eq (hfirst.trans hlow.symm), BitVec.eq_of_toNat_eq (hsecond.trans hhigh.symm)⟩

/-- An indexed word store that completed stored its word. -/
theorem exec_stwIdx_next {x : RegNum} {y : BitVec 2} {b : BitVec 4} {s t : State}
    (hexec : exec (.stwIdx x y b) s = .next t) (heven : (s.index y).toNat % 2 = 0)
    (hplatform : s.cfg.platform = [.allMemory]) :
    HoldsWord (s.indexedWord y b) (s.reg x) s t ∧ StoresOnly s t := by
  have hfits : (s.indexedWord y b).toNat + AccessKind.writeWord.width ≤ 2 ^ 24 := by
    have hwidth : AccessKind.writeWord.width = 2 := rfl
    rw [indexedWord_eq_ofNat, BitVec.toNat_ofNat, hwidth]
    omega
  have hfree : s.prefixFree := by
    have hunprefixed : exec (.stwIdx x y b) s =
      unprefixed s fun u => aligned (u.indexedWord y b) u fun u => stwTo x (u.indexedWord y b) u := rfl
    obtain ⟨hlatch, _⟩ | ⟨_, _, hrefused⟩ | ⟨_, hignore, _⟩ := unprefixed_cases s _
    · exact .inl hlatch
    · rw [hunprefixed, hrefused] at hexec
      cases hexec
    · exact .inr hignore
  rw [exec_stwIdx_of_even x y b hfree heven] at hexec
  obtain ⟨u, hnext, hholds, honly⟩ :=
    stwTo_stores (s := s.dropLatch) x (isMemory_of_allMemory .writeWord hplatform hfits)
  cases hexec.symm.trans hnext
  exact ⟨hholds, honly⟩

/-- Settles O55: the store leaves the index registers and the build as they were, so the loads reach the two bytes it
wrote. -/
theorem storedWordLoadsBack : Obligations.StoredWordLoadsBack := by
  intro x z y b s t hexec heven hplatform
  obtain ⟨⟨hfirst, hsecond, _⟩, hregs, _, ⟨_, hindex, _, _, _, hcfg, _⟩, _, hlatch⟩ :=
    exec_stwIdx_next hexec heven hplatform
  have hplatform' : t.cfg.platform = [.allMemory] := hcfg ▸ hplatform
  have haddr : t.indexedWord y b = s.indexedWord y b := by
    rw [indexedWord_eq_ofNat, indexedWord_eq_ofNat, hindex]
  rw [← firstByte_eq_ite] at hfirst
  rw [← secondByte_eq_ite] at hsecond
  refine ⟨?word, fun f g first second hf hg hbig hlittle => ?bytes⟩
  case word =>
    have hfits : (t.indexedWord y b).toNat + AccessKind.readWord.width ≤ 2 ^ 24 := by
      have hwidth : AccessKind.readWord.width = 2 := rfl
      rw [haddr, indexedWord_eq_ofNat, BitVec.toNat_ofNat, hwidth]
      omega
    obtain ⟨u, hu, hz, _⟩ :=
      ldwFrom_loads (s := t.dropLatch) z (isMemory_of_allMemory .readWord hplatform' hfits)
    refine ⟨u, (exec_ldwIdx_of_even z y b (.inl hlatch) (hindex y ▸ heven)).trans hu, ?_⟩
    rw [hz, ← wordAt_eq_wordFrom, State.wordAt, dropLatch_byteAt, dropLatch_byteAt, dropLatch_cfg, haddr, hfirst, hsecond,
      hcfg, joinBytes_split]
  case bytes =>
    obtain ⟨hfirstEq, hsecondEq⟩ := bytes_eq_of_order hbig hlittle
    have hload (d : BitVec 4) (v : Byte) (hbyte : t.byteAt (t.indexedByte y d) = v) :
        ∃ u, exec (.ldbIdx z y d) t = .next u ∧ u.reg z = s.withLowByte z v := by
      have hfits : (t.indexedByte y d).toNat + AccessKind.readByte.width ≤ 2 ^ 24 := (t.indexedByte y d).isLt
      obtain ⟨u, hu, hz, _⟩ :=
        ldbFrom_loads (s := t.dropLatch) z (isMemory_of_allMemory .readByte hplatform' hfits)
      refine ⟨u, (exec_ldbIdx z y d (.inl hlatch)).trans hu, ?_⟩
      rw [hz, dropLatch_byteAt, hbyte, State.withLowByte, State.withLowByte, dropLatch_cfg, dropLatch_reg, hcfg, hregs]
    have hfirstAddr : t.indexedByte y f = s.indexedWord y b := by
      rw [indexedByte_eq_ofNat, indexedWord_eq_ofNat, hindex, hf]
    have hsecondAddr : t.indexedByte y g = s.indexedWord y b + 1#24 := by
      rw [indexedByte_eq_ofNat, indexedWord_eq_ofNat, hindex, hg, ← Nat.add_assoc, BitVec.ofNat_add]
    exact ⟨hload f first (by rw [hfirstAddr, hfirst, hfirstEq]), hload g second (by rw [hsecondAddr, hsecond, hsecondEq])⟩

end Sys2Proof.Machine
end

section
/-! PROOFS. Register pairs and special purpose registers as numbers (spec/00_scope.md R12, spec/10_state.md R30 to
R33). -/

namespace Sys2Proof.Machine

/-! ### Pairs -/

theorem pairFirst_eq_ofNat (p : BitVec 3) : pairFirst p = BitVec.ofNat 4 (2 * p.toNat) := by
  revert p
  decide

theorem pairSecond_eq_ofNat (p : BitVec 3) : pairSecond p = BitVec.ofNat 4 (2 * p.toNat + 1) := by
  revert p
  decide

theorem pairSecond_ne_pairFirst (p : BitVec 3) : pairSecond p ≠ pairFirst p := by
  revert p
  decide

/-- A pair's value, as the statements write it. -/
theorem pair_toNat (s : State) (p : BitVec 3) : (s.pair p).toNat = s.pairValue p := by
  unfold State.pair State.pairValue
  rw [pairFirst_eq_ofNat, pairSecond_eq_ofNat]
  split <;> exact toNat_append_eq_add _ _

/-- A pair that was written reads as the value. -/
theorem pair_setPair (s : State) (p : BitVec 3) (v : Long) : (s.setPair p v).pair p = v := by
  have hcfg : (s.setPair p v).cfg = s.cfg := by rw [setPair_regs]
  have hhalves : v.extractLsb' 16 16 ++ v.extractLsb' 0 16 = v :=
    BitVec.extractLsb'_append_extractLsb'_eq_extractLsb' rfl |>.trans (BitVec.extractLsb'_eq_self)
  rw [State.pair, hcfg, reg_setPair, reg_setPair, if_pos rfl, if_neg (pairSecond_ne_pairFirst p), if_pos rfl]
  split <;> exact hhalves

/-- Writing a pair leaves the registers outside it. -/
theorem reg_setPair_of_outside (s : State) {p : BitVec 3} (v : Long) {r : RegNum} (hr : r.toNat / 2 ≠ p.toNat) :
    (s.setPair p v).reg r = s.reg r := by
  have hfirst : r ≠ pairFirst p := by
    rintro rfl
    rw [pairFirst_eq_ofNat, BitVec.toNat_ofNat] at hr
    omega
  have hsecond : r ≠ pairSecond p := by
    rintro rfl
    rw [pairSecond_eq_ofNat, BitVec.toNat_ofNat] at hr
    omega
  rw [reg_setPair, if_neg hfirst, if_neg hsecond]

/-! ### The views of a special purpose register -/

/-- The read view of `VBAR` as a number; spec/10_state.md R31. -/
theorem readSpr_vbar_toNat (s : State) : (s.readSpr .vbar).toNat = 2 * s.vbar.toNat := by
  show (0#8 ++ s.vbar ++ 0#1).toNat = _
  rw [toNat_append_eq_add, toNat_append_eq_add, BitVec.toNat_zero, BitVec.toNat_zero]
  omega

/-- The read view by a register's number; spec/10_state.md R30. -/
theorem readSpr_toNat (s : State) : ∀ n < 16, (s.readSpr (sprOf (BitVec.ofNat 4 n))).toNat = s.sprView n
  | 0, _ => msr_toLong_toNat s
  | 5, _ => readSpr_vbar_toNat s
  | 1, _ | 2, _ | 3, _ | 4, _ | 6, _ | 7, _ | 8, _ | 9, _ | 10, _ | 11, _ | 12, _ | 13, _ | 14, _ | 15, _ => rfl
  | n + 16, hn => absurd hn (Nat.not_lt.2 (Nat.le_add_left 16 n))

theorem readSpr_sprOf_toNat (s : State) (y : BitVec 4) : (s.readSpr (sprOf y)).toNat = s.sprView y.toNat := by
  rw [← readSpr_toNat s y.toNat y.isLt, BitVec.ofNat_toNat, BitVec.setWidth_eq]

/-- No number past 15 names a register. -/
theorem sprView_of_le (s : State) {n : Nat} (hn : 16 ≤ n) : s.sprView n = 0 := by
  obtain ⟨k, rfl⟩ := Nat.exists_eq_add_of_le' hn
  rfl

/-- The numbers name different registers; spec/10_state.md R30. -/
theorem sprOf_injective (y z : BitVec 4) (h : sprOf y = sprOf z) : y = z := by
  revert y z
  decide

theorem sprOf_eq_msr_iff (y : BitVec 4) : sprOf y = .msr ↔ y = 0#4 := by
  revert y
  decide

theorem sprOf_eq_vbar_iff (y : BitVec 4) : sprOf y = .vbar ↔ y = 5#4 := by
  revert y
  decide

theorem isFp_sprOf_iff (y : BitVec 4) : (sprOf y).isFp = true ↔ 12 ≤ y.toNat := by
  revert y
  decide

/-- A register written through its view reads as the value, but for the MSR and `VBAR`; spec/10_state.md R32. -/
theorem readSpr_writeSpr_same (s : State) {r : Spr} (v : Long) (hmsr : r ≠ .msr) (hvbar : r ≠ .vbar) :
    (s.writeSpr r v).readSpr r = v := by
  cases r with
  | msr => exact absurd rfl hmsr
  | vbar => exact absurd rfl hvbar
  | index y => exact index_setIndex_same s y v
  | fp u => exact fpr_setFpr_same s u v
  | lr | ilr | elr | cc | ear | ctx => rfl

/-- A write of one register leaves the view of every other. -/
theorem readSpr_writeSpr_ne (s : State) {r q : Spr} (v : Long) (h : q ≠ r) :
    (s.writeSpr r v).readSpr q = s.readSpr q := by
  cases r with
  | msr => cases q with
    | msr => exact absurd rfl h
    | _ => rfl
  | lr => cases q with
    | lr => exact absurd rfl h
    | _ => rfl
  | ilr => cases q with
    | ilr => exact absurd rfl h
    | _ => rfl
  | elr => cases q with
    | elr => exact absurd rfl h
    | _ => rfl
  | cc => cases q with
    | cc => exact absurd rfl h
    | _ => rfl
  | vbar => cases q with
    | vbar => exact absurd rfl h
    | _ => rfl
  | ear => cases q with
    | ear => exact absurd rfl h
    | _ => rfl
  | ctx => cases q with
    | ctx => exact absurd rfl h
    | _ => rfl
  | index y => cases q with
    | index z => exact index_setIndex_ne s v fun e => h (congrArg Spr.index e)
    | _ => rfl
  | fp u => cases q with
    | fp w => exact fpr_setFpr_ne s v fun e => h (congrArg Spr.fp e)
    | _ => rfl

/-- The low six bits of a value, one by one. -/
theorem toNat_mod_64 (v : Long) :
    v.toNat % 64 = (v.getLsbD 0).toNat + 2 * (v.getLsbD 1).toNat + 4 * (v.getLsbD 2).toNat + 8 * (v.getLsbD 3).toNat +
      16 * (v.getLsbD 4).toNat + 32 * (v.getLsbD 5).toNat := by
  have hbit (k : Nat) : (v.getLsbD k).toNat = v.toNat / 2 ^ k % 2 := Nat.toNat_testBit v.toNat k
  simp only [hbit]
  omega

/-- The fields of the MSR that are read-only are the bits of its view above the low six. -/
theorem sprView_msr_div_64 (s : State) :
    s.sprView 0 / 64 * 64 =
      2 ^ 16 * s.msr.ec.toNat + 2 ^ 29 * s.msr.z.toNat + 2 ^ 30 * s.msr.c.toNat + 2 ^ 31 * s.msr.eip.toNat := by
  have hi := s.msr.i.toNat_le
  have he := s.msr.e.toNat_le
  have hvm := s.msr.vm.toNat_le
  have hum := s.msr.um.toNat_le
  have hvms := s.msr.vms.toNat_le
  have hums := s.msr.ums.toNat_le
  rw [State.sprView]
  omega

/-- Of the MSR a write changes the six writable fields, its low six bits; spec/10_state.md R32. -/
theorem sprView_writeSpr_msr (s : State) (v : Long) :
    (s.writeSpr .msr v).sprView 0 = s.sprView 0 / 64 * 64 + v.toNat % 64 := by
  rw [toNat_mod_64, sprView_msr_div_64]
  simp only [State.sprView, State.writeSpr, setMsr_msr, Msr.written]
  omega

/-- Of `VBAR` a write changes bits 23:1; spec/10_state.md R32. -/
theorem sprView_writeSpr_vbar (s : State) (v : Long) :
    (s.writeSpr .vbar v).sprView 5 = v.toNat % 2 ^ 24 / 2 * 2 := by
  show 2 * (v.extractLsb' 1 23).toNat = _
  rw [BitVec.extractLsb'_toNat, Nat.shiftRight_eq_div_pow]
  omega

/-- Neither `pc` nor the latch is in a view. -/
theorem sprView_setPc_dropLatch (s : State) (a : Addr) (n : Nat) : (s.dropLatch.setPc a).sprView n = s.sprView n := rfl

/-- A special purpose register written, and nothing else changed but `pc` and the latch: no user register, no memory,
nothing of the MMU's or the platform's. -/
theorem complete_writeSpr (s : State) (r : Spr) (v : Long) :
    ∃ t, complete (s.writeSpr r v) = .next t ∧ (∀ n, t.sprView n = (s.writeSpr r v).sprView n) ∧ KeepsRegs s t ∧
      KeepsMemory s t ∧ KeepsMmu s t ∧ KeepsOutside s t ∧ Advances s t := by
  cases r with
  | msr | lr | ilr | elr | cc | vbar | ear | ctx | index | fp =>
    exact ⟨_, complete_eq _, sprView_setPc_dropLatch _ _, fun _ => rfl, ⟨fun _ => rfl, rfl⟩, ⟨rfl, fun _ => rfl⟩,
      ⟨rfl, rfl, rfl⟩, rfl, rfl⟩

/-! ### The checks of a move -/

/-- A move of an open register runs; spec/60_exceptions.md R321, spec/10_state.md R39. -/
theorem sprMove_of_open {s : State} {y : BitVec 4} (k : State → Result) (hopen : s.sprOpen y) :
    sprMove (sprOf y) s k = k s := by
  obtain ⟨hmode, hfpu⟩ := hopen
  have hallowed : ¬ (s.msr.um && (sprOf y).kernelOnly) = true := by
    rw [Bool.and_eq_true, kernelOnly_sprOf_iff]
    rintro ⟨hum, hprivileged⟩
    exact hmode.elim (fun hkernel => Bool.false_ne_true (hkernel.symm.trans hum)) fun h => h hprivileged
  have hpresent : ¬ ((sprOf y).isFp && !s.cfg.hasFpu) = true := by
    rw [Bool.and_eq_true, isFp_sprOf_iff, Bool.not_eq_true']
    rintro ⟨hfp, habsent⟩
    exact Bool.false_ne_true (habsent.symm.trans (hfpu hfp))
  rw [sprMove, if_neg hallowed, if_neg hpresent]

/-- Without an FPU a move of an FP register is refused, in both modes; spec/10_state.md R31, R32. -/
theorem sprMove_of_absent {s : State} {y : BitVec 4} (k : State → Result) (hy : 12 ≤ y.toNat)
    (habsent : s.cfg.hasFpu = false) : sprMove (sprOf y) s k = .refused .fpRegisterAbsent := by
  have hallowed : (sprOf y).kernelOnly = false := by
    revert y
    decide
  rw [sprMove, hallowed, Bool.and_false, if_neg Bool.false_ne_true, (isFp_sprOf_iff y).2 hy, habsent]
  rfl

end Sys2Proof.Machine
end

section
/-! PROOFS. The statements about the special purpose registers and the MMU (spec/46_io_spr_mmu.md). -/

namespace Sys2Proof.Machine

/-- Settles O56: past its checks `ldspr` writes the read view in the pair. -/
theorem sprReads : Obligations.SprReads := by
  intro x y
  have hword : 0b110010#6 ++ x ++ 0b000#3 ++ y = 0xC800#16 ||| BitVec.ofNat 16 (128 * x.toNat) ||| y.setWidth 16 := by
    revert x y
    decide
  have hexec (s : State) (hfree : s.prefixFree) : exec (.ldspr x y) s =
      sprMove (sprOf y) s.dropLatch fun u => complete (u.setPair x (u.readSpr (sprOf y))) := by
    have hunprefixed : exec (.ldspr x y) s = unprefixed s fun u => sprMove (sprOf y) u fun u =>
      complete (u.setPair x (u.readSpr (sprOf y))) := rfl
    rw [hunprefixed, unprefixed_free _ hfree]
  refine ⟨encodes_of_encode rfl hword, fun s hfree => ⟨fun hopen => ?runs, fun hy habsent => ?absent⟩⟩
  case runs =>
    rw [hexec s hfree, sprMove_of_open (s := s.dropLatch) _ hopen]
    refine ⟨_, complete_eq _, ?value, fun r hr => ?others, ?frame⟩
    case value =>
      have hpair : (s.dropLatch.setPair x (s.dropLatch.readSpr (sprOf y))).pairValue x = s.sprView y.toNat := by
        rw [← pair_toNat, pair_setPair]
        exact readSpr_sprOf_toNat s y
      exact hpair
    case others => exact reg_setPair_of_outside s.dropLatch _ hr
    case frame =>
      rw [setPair_regs]
      exact ⟨⟨rfl, rfl⟩, ⟨fun _ => rfl, rfl⟩, keepsSystem_of_flags s _ s.msr.z s.msr.c _, rfl, rfl⟩
  case absent =>
    rw [hexec s hfree]
    exact sprMove_of_absent (s := s.dropLatch) _ hy habsent

/-- Settles O57: past its checks `stspr` writes one register through its write view. -/
theorem sprWrites : Obligations.SprWrites := by
  intro x y
  have hword : 0b110110#6 ++ x ++ 0b000#3 ++ y = 0xD800#16 ||| BitVec.ofNat 16 (128 * x.toNat) ||| y.setWidth 16 := by
    revert x y
    decide
  have hexec (s : State) (hfree : s.prefixFree) : exec (.stspr x y) s =
      sprMove (sprOf y) s.dropLatch fun u => complete (u.writeSpr (sprOf y) (u.pair x)) := by
    have hunprefixed : exec (.stspr x y) s = unprefixed s fun u => sprMove (sprOf y) u fun u =>
      complete (u.writeSpr (sprOf y) (u.pair x)) := rfl
    rw [hunprefixed, unprefixed_free _ hfree]
  refine ⟨encodes_of_encode rfl hword, fun s hfree => ⟨fun hopen => ?runs, fun hy habsent => ?absent⟩⟩
  case runs =>
    rw [hexec s hfree, sprMove_of_open (s := s.dropLatch) _ hopen]
    have hpair : (s.dropLatch.pair x).toNat = s.pairValue x := pair_toNat s x
    obtain ⟨t, hnext, hview, hregs, hmem, hmmu, houtside, hadvances⟩ :=
      complete_writeSpr s.dropLatch (sprOf y) (s.dropLatch.pair x)
    refine ⟨t, hnext, ?value, fun n hn => ?others, hregs, hmem, hmmu, houtside, hadvances⟩
    case value =>
      rw [hview, hview, hview]
      rw [← hpair]
      split
      next hmsr =>
        rw [(sprOf_eq_msr_iff y).2 hmsr]
        exact sprView_writeSpr_msr s.dropLatch _
      next hmsr =>
        split
        next hvbar =>
          rw [(sprOf_eq_vbar_iff y).2 hvbar]
          exact sprView_writeSpr_vbar s.dropLatch _
        next hvbar =>
          rw [← readSpr_sprOf_toNat, readSpr_writeSpr_same s.dropLatch _ (mt (sprOf_eq_msr_iff y).1 hmsr)
            (mt (sprOf_eq_vbar_iff y).1 hvbar)]
    case others =>
      rw [hview]
      show _ = s.dropLatch.sprView n
      obtain hlt | hge := Nat.lt_or_ge n 16
      · have hne : sprOf (BitVec.ofNat 4 n) ≠ sprOf y := fun h => hn <| by
          rw [← sprOf_injective _ _ h, BitVec.toNat_ofNat, Nat.mod_eq_of_lt hlt]
        rw [← readSpr_toNat _ n hlt, ← readSpr_toNat _ n hlt, readSpr_writeSpr_ne s.dropLatch _ hne]
      · rw [sprView_of_le _ hge, sprView_of_le _ hge]
  case absent =>
    rw [hexec s hfree]
    exact sprMove_of_absent (s := s.dropLatch) _ hy habsent

/-- The PID register written, and nothing else changed but `pc` and the latch. -/
theorem complete_setPid_writes (s : State) (v : BitVec 6) :
    ∃ t, complete (s.setPid v) = .next t ∧ t.pid = v ∧ (∀ d, t.tlbEntry d = s.tlbEntry d) ∧ KeepsRegs s t ∧
      KeepsFlags s t ∧ KeepsMemory s t ∧ KeepsNamedSprs s t ∧ KeepsIndex s t ∧ KeepsFp s t ∧ KeepsStatus s t ∧
      KeepsOutside s t ∧ Advances s t :=
  ⟨_, complete_eq _, rfl, fun _ => rfl, fun _ => rfl, ⟨rfl, rfl⟩, ⟨fun _ => rfl, rfl⟩,
    ⟨rfl, ⟨rfl, rfl, rfl⟩, rfl, rfl, rfl⟩, fun _ => rfl, fun _ => rfl, ⟨rfl, rfl, rfl, rfl, rfl, rfl, rfl, rfl⟩,
    ⟨rfl, rfl, rfl⟩, rfl, rfl⟩

/-- A TLB entry written, and nothing else changed but `pc` and the latch. -/
theorem complete_setTlb_writes (s : State) (d : BitVec 5) (v : Long) :
    ∃ t, complete (s.setTlb d v) = .next t ∧ t.tlbEntry d = v ∧ (∀ f, f ≠ d → t.tlbEntry f = s.tlbEntry f) ∧
      t.pid = s.pid ∧ KeepsRegs s t ∧ KeepsFlags s t ∧ KeepsMemory s t ∧ KeepsNamedSprs s t ∧ KeepsIndex s t ∧
      KeepsFp s t ∧ KeepsStatus s t ∧ KeepsOutside s t ∧ Advances s t :=
  ⟨_, complete_eq _, tlbEntry_setTlb_same s d v, fun _ hf => tlbEntry_setTlb_ne s v hf, rfl, fun _ => rfl, ⟨rfl, rfl⟩,
    ⟨fun _ => rfl, rfl⟩, ⟨rfl, ⟨rfl, rfl, rfl⟩, rfl, rfl, rfl⟩, fun _ => rfl, fun _ => rfl,
    ⟨rfl, rfl, rfl, rfl, rfl, rfl, rfl, rfl⟩, ⟨rfl, rfl, rfl⟩, rfl, rfl⟩

/-- Settles O60: in kernel mode with an MMU each load passes its checks and writes its register. -/
theorem mmuLoads : Obligations.MmuLoads := by
  have hruns {s : State} (k : State → Result) (hfree : s.prefixFree) (hmmu : s.cfg.hasMmu = true)
      (hum : s.msr.um = false) :
      (needsUnit s.cfg.hasMmu s fun u => unprefixed u fun u => kernelOnly u k) = k s.dropLatch := by
    rw [needsUnit_unprefixed _ hmmu hfree, kernelOnly, dropLatch_msr, hum, if_neg Bool.false_ne_true]
  refine ⟨fun x => ⟨encodes_oneField 79 0xCC#8 0#4 rfl rfl (fun _ => rfl) x, fun s hfree hmmu hum => ?pid⟩,
    fun x d => ⟨encodes_of_encode rfl ?word, fun s hfree hmmu hum => ?tlb⟩⟩
  case pid =>
    have hexec : exec (.ldpid x) s = complete (s.dropLatch.setPid ((s.reg x).extractLsb' 0 6)) := hruns _ hfree hmmu hum
    have hlow : ((s.reg x).extractLsb' 0 6).toNat = (s.reg x).toNat % 64 := by
      rw [BitVec.extractLsb'_toNat, Nat.shiftRight_zero]
    obtain ⟨t, hnext, hpid, hframe⟩ := complete_setPid_writes s.dropLatch ((s.reg x).extractLsb' 0 6)
    exact ⟨t, hexec.trans hnext, hpid ▸ hlow, hframe⟩
  case word =>
    revert x d
    decide
  case tlb =>
    have hexec : exec (.ldtlb x d) s = complete (s.dropLatch.setTlb d (s.dropLatch.pair x)) := hruns _ hfree hmmu hum
    have hpair : (s.dropLatch.pair x).toNat = s.pairValue x := pair_toNat s.dropLatch x
    obtain ⟨t, hnext, hentry, hframe⟩ := complete_setTlb_writes s.dropLatch d (s.dropLatch.pair x)
    exact ⟨t, hexec.trans hnext, hentry ▸ hpair, hframe⟩

end Sys2Proof.Machine
end
